-- ==== Sys2Proof/Word.lean ====
section
/-! DEFINITION. The word types of the engine (00_scope.md rule R6, 30_encoding.md rule R81). -/

namespace Sys2Proof

/-- An 8-bit register, a byte of memory, or the immediate `kk`. -/
abbrev Byte := BitVec 8

/-- A 16-bit value: an opcode, `I`, `pc`, a stack entry. -/
abbrev Word := BitVec 16

/-- A 4-bit value: the row count `n`, a key number. -/
abbrev Nibble := BitVec 4

/-- The number of a general register V0 to VF: the fields `x` and `y`. -/
abbrev RegIdx := BitVec 4

/-- The 12-bit field `nnn`. -/
abbrev Addr12 := BitVec 12

end Sys2Proof
end

