-- ==== Sys2Proof/Config.lean ====
section
/-! DEFINITION. What an implementation fixes (00_scope.md rules R6 to R11), and the free values the environment
supplies (00_scope.md rule R12). -/

namespace Sys2Proof

/-- `MEM_SIZE` (R6, R60). -/
@[simp] abbrev Config.memSize : Nat := 4096

/-- `STACK_DEPTH` (R6, R29). -/
@[simp] abbrev Config.stackDepth : Nat := 16

/-- `DISPLAY_W` (R6, R36). -/
@[simp] abbrev Config.displayWidth : Nat := 64

/-- `DISPLAY_H` (R6, R36). -/
@[simp] abbrev Config.displayHeight : Nat := 32

/-- `PROGRAM_BASE` (R6): the entry point (R262) and the load address of the image (R51). -/
@[simp] abbrev Config.programBase : Nat := 0x200

/-- The longest image a reset accepts, 4096 - 0x200 bytes (R261). -/
@[simp] abbrev Config.maxImage : Nat := 3584

/-- The default of `CPU_HZ` (R7). No rule of the engine depends on it (R273). -/
def Config.cpuHz : Nat := 540

/-- `TIMER_HZ` (R8). -/
@[simp] abbrev Config.timerHz : Nat := 60

/-- `EDGE_POLICY` (R9): what a sprite bit past the right or bottom edge does (R184). -/
inductive EdgePolicy where
  /-- The default and the source's reference behaviour: raw linear addressing, past the end dropped. -/
  | linear
  /-- Bits past an edge are dropped. -/
  | clip
  /-- Bits past an edge come back at the opposite edge. -/
  | wrap
  deriving DecidableEq, Repr

/-- The three kinds of event that change the engine's state, and no other (R229). -/
inductive Event where
  /-- One CPU-cadence event: at most one instruction (R94). -/
  | cycle
  /-- One 60 Hz timer-cadence event (R231). -/
  | tick
  /-- The key collaborator delivers a press of key `k` (R242, R207). -/
  | keyPress (k : Nibble)
  deriving DecidableEq, Repr, Inhabited

/-- The default `FONT` (R52), five bytes a glyph: glyphs 0 to 7. UNVERIFIED: the spec marks the bytes as general
knowledge (log 3). -/
def Config.fontLow : List Byte :=
  [0xF0, 0x90, 0x90, 0x90, 0xF0] ++ [0x20, 0x60, 0x20, 0x20, 0x70] ++
  [0xF0, 0x10, 0xF0, 0x80, 0xF0] ++ [0xF0, 0x10, 0xF0, 0x10, 0xF0] ++
  [0x90, 0x90, 0xF0, 0x10, 0x10] ++ [0xF0, 0x80, 0xF0, 0x10, 0xF0] ++
  [0xF0, 0x80, 0xF0, 0x90, 0xF0] ++ [0xF0, 0x10, 0x20, 0x40, 0x40]

/-- The default `FONT` (R52): glyphs 8 to F. -/
def Config.fontHigh : List Byte :=
  [0xF0, 0x90, 0xF0, 0x90, 0xF0] ++ [0xF0, 0x90, 0xF0, 0x10, 0xF0] ++
  [0xF0, 0x90, 0xF0, 0x90, 0x90] ++ [0xE0, 0x90, 0xE0, 0x90, 0xE0] ++
  [0xF0, 0x80, 0x80, 0x80, 0xF0] ++ [0xE0, 0x90, 0x90, 0x90, 0xE0] ++
  [0xF0, 0x80, 0xF0, 0x80, 0xF0] ++ [0xF0, 0x80, 0xF0, 0x80, 0x80]

/-- The 80 bytes of the default `FONT`, glyph `d` at offset `d*5` (R51, R52). -/
def Config.font : List Byte := Config.fontLow ++ Config.fontHigh

/-- What a byte of memory holds after a reset with the default font and no image, and so what an address that the
memory does not list reads as: the font at 0x000 to 0x04F, 0x00 elsewhere (R51). UNVERIFIED (log 2, log 3). -/
def Config.resetByte (a : Nat) : Byte := Config.font.getD a 0

/-- FREE VALUE (log 5): the event of step `n`. The order of cycles, ticks and key presses is left open (R229, R270,
D21), so nothing constrains it. -/
opaque Config.event : Nat → Event

/-- FREE VALUE (log 6): the byte on the random input during step `n` (R244, D23: no law). -/
opaque Config.rand : Nat → Byte

/-- FREE VALUE (log 7): the key-down lines during step `n`, bit `k` for key `k` (R241, D38: the collaborator's own). -/
opaque Config.keyDown : Nat → BitVec 16

end Sys2Proof
end

