-- ==== Sys2Proof/Syntax.lean ====
section
/-! DEFINITION. The instruction set: one constructor per row of spec/opcode_table.json, in the scan order of
30_encoding.md rule R86. A constructor has exactly the fields its pattern carries (R81). -/

namespace Sys2Proof

/-- The 35 instructions of R86. -/
inductive Instr where
  /-- `00E0` CLS (R185). -/
  | cls
  /-- `00EE` RET (R112). -/
  | ret
  /-- `0nnn` SYS nnn (R113), for every `nnn` but 0x0E0 and 0x0EE (R87). -/
  | sys (nnn : Addr12)
  /-- `1nnn` JP nnn (R114). -/
  | jp (nnn : Addr12)
  /-- `2nnn` CALL nnn (R115). -/
  | call (nnn : Addr12)
  /-- `3xkk` SE Vx, kk (R116). -/
  | seImm (x : RegIdx) (kk : Byte)
  /-- `4xkk` SNE Vx, kk (R117). -/
  | sneImm (x : RegIdx) (kk : Byte)
  /-- `5xy0` SE Vx, Vy (R118). -/
  | seReg (x y : RegIdx)
  /-- `6xkk` LD Vx, kk (R131). -/
  | ldImm (x : RegIdx) (kk : Byte)
  /-- `7xkk` ADD Vx, kk (R132). -/
  | addImm (x : RegIdx) (kk : Byte)
  /-- `8xy0` LD Vx, Vy (R133). -/
  | ldReg (x y : RegIdx)
  /-- `8xy1` OR Vx, Vy (R134). -/
  | orReg (x y : RegIdx)
  /-- `8xy2` AND Vx, Vy (R135). -/
  | andReg (x y : RegIdx)
  /-- `8xy3` XOR Vx, Vy (R136). -/
  | xorReg (x y : RegIdx)
  /-- `8xy4` ADD Vx, Vy (R137). -/
  | addReg (x y : RegIdx)
  /-- `8xy5` SUB Vx, Vy (R138). -/
  | subReg (x y : RegIdx)
  /-- `8xy6` SHR Vx (R139); the pattern carries `y`, the meaning never reads it. -/
  | shr (x y : RegIdx)
  /-- `8xy7` SUBN Vx, Vy (R140). -/
  | subnReg (x y : RegIdx)
  /-- `8xyE` SHL Vx (R141); the pattern carries `y`, the meaning never reads it. -/
  | shl (x y : RegIdx)
  /-- `9xy0` SNE Vx, Vy (R119). -/
  | sneReg (x y : RegIdx)
  /-- `Annn` LD I, nnn (R161). -/
  | ldI (nnn : Addr12)
  /-- `Bnnn` JP V0, nnn (R120). -/
  | jpV0 (nnn : Addr12)
  /-- `Cxkk` RND Vx, kk (R142). -/
  | rnd (x : RegIdx) (kk : Byte)
  /-- `Dxyn` DRW Vx, Vy, n (R186). -/
  | drw (x y : RegIdx) (n : Nibble)
  /-- `Ex9E` SKP Vx (R201). -/
  | skp (x : RegIdx)
  /-- `ExA1` SKNP Vx (R202). -/
  | sknp (x : RegIdx)
  /-- `Fx07` LD Vx, DT (R203). -/
  | ldVxDt (x : RegIdx)
  /-- `Fx15` LD DT, Vx (R205). -/
  | ldDtVx (x : RegIdx)
  /-- `Fx18` LD ST, Vx (R206). -/
  | ldStVx (x : RegIdx)
  /-- `Fx0A` LD Vx, K (R204). -/
  | ldVxK (x : RegIdx)
  /-- `Fx1E` ADD I, Vx (R162). -/
  | addI (x : RegIdx)
  /-- `Fx29` LD F, Vx (R163). -/
  | ldF (x : RegIdx)
  /-- `Fx33` LD B, Vx (R164). -/
  | ldB (x : RegIdx)
  /-- `Fx55` LD [I], Vx (R165). -/
  | storeRegs (x : RegIdx)
  /-- `Fx65` LD Vx, [I] (R166). -/
  | loadRegs (x : RegIdx)
  deriving DecidableEq, Repr

end Sys2Proof
end

