-- ==== Sys2Proof/Decode.lean ====
section
/-! DEFINITION. The instruction table, the ordered first-match decoder, and the encoder (30_encoding.md rules R80 to R90). -/

namespace Sys2Proof

/-! ### Fields (R81) -/

/-- `x`, o[11:8]. -/
def fieldX (o : Word) : RegIdx := o.extractLsb' 8 4

/-- `y`, o[7:4]. -/
def fieldY (o : Word) : RegIdx := o.extractLsb' 4 4

/-- `n`, o[3:0]. -/
def fieldN (o : Word) : Nibble := o.extractLsb' 0 4

/-- `kk`, o[7:0]. -/
def fieldKk (o : Word) : Byte := o.extractLsb' 0 8

/-- `nnn`, o[11:0]. -/
def fieldNnn (o : Word) : Addr12 := o.extractLsb' 0 12

/-- The byte at the lower address is bits 15:8 (R62). -/
def wordOfBytes (hi lo : Byte) : Word := hi ++ lo

/-- Bits 15:8 of a word: the byte at the lower address (R62). -/
def highByte (o : Word) : Byte := o.extractLsb' 8 8

/-- Bits 7:0 of a word: the byte at the higher address (R62). -/
def lowByte (o : Word) : Byte := o.extractLsb' 0 8

/-! ### The table (R83, R86) -/

/-- One row of the instruction table: its matcher (R83) and the instruction it builds from an opcode it matches. -/
structure Row where
  /-- 0xF in every fixed nibble, 0x0 in every field. -/
  mask : Word
  /-- The fixed nibbles in place, 0 elsewhere. -/
  value : Word
  /-- The instruction, with its fields read from the opcode. -/
  build : Word → Instr

/-- "an opcode `o` matches an instruction iff `(o & mask) == value`" (R84). -/
def Row.selects (r : Row) (o : Word) : Bool := o &&& r.mask == r.value

/-- Rows 1 to 8 of R86. -/
def tableControl : List Row :=
  [ ⟨0xFFFF, 0x00E0, fun _ => .cls⟩,
    ⟨0xFFFF, 0x00EE, fun _ => .ret⟩,
    ⟨0xF000, 0x0000, fun o => .sys (fieldNnn o)⟩,
    ⟨0xF000, 0x1000, fun o => .jp (fieldNnn o)⟩,
    ⟨0xF000, 0x2000, fun o => .call (fieldNnn o)⟩,
    ⟨0xF000, 0x3000, fun o => .seImm (fieldX o) (fieldKk o)⟩,
    ⟨0xF000, 0x4000, fun o => .sneImm (fieldX o) (fieldKk o)⟩,
    ⟨0xF00F, 0x5000, fun o => .seReg (fieldX o) (fieldY o)⟩ ]

/-- Rows 9 to 19 of R86. -/
def tableAlu : List Row :=
  [ ⟨0xF000, 0x6000, fun o => .ldImm (fieldX o) (fieldKk o)⟩,
    ⟨0xF000, 0x7000, fun o => .addImm (fieldX o) (fieldKk o)⟩,
    ⟨0xF00F, 0x8000, fun o => .ldReg (fieldX o) (fieldY o)⟩,
    ⟨0xF00F, 0x8001, fun o => .orReg (fieldX o) (fieldY o)⟩,
    ⟨0xF00F, 0x8002, fun o => .andReg (fieldX o) (fieldY o)⟩,
    ⟨0xF00F, 0x8003, fun o => .xorReg (fieldX o) (fieldY o)⟩,
    ⟨0xF00F, 0x8004, fun o => .addReg (fieldX o) (fieldY o)⟩,
    ⟨0xF00F, 0x8005, fun o => .subReg (fieldX o) (fieldY o)⟩,
    ⟨0xF00F, 0x8006, fun o => .shr (fieldX o) (fieldY o)⟩,
    ⟨0xF00F, 0x8007, fun o => .subnReg (fieldX o) (fieldY o)⟩,
    ⟨0xF00F, 0x800E, fun o => .shl (fieldX o) (fieldY o)⟩ ]

/-- Rows 20 to 26 of R86. -/
def tableMixed : List Row :=
  [ ⟨0xF00F, 0x9000, fun o => .sneReg (fieldX o) (fieldY o)⟩,
    ⟨0xF000, 0xA000, fun o => .ldI (fieldNnn o)⟩,
    ⟨0xF000, 0xB000, fun o => .jpV0 (fieldNnn o)⟩,
    ⟨0xF000, 0xC000, fun o => .rnd (fieldX o) (fieldKk o)⟩,
    ⟨0xF000, 0xD000, fun o => .drw (fieldX o) (fieldY o) (fieldN o)⟩,
    ⟨0xF0FF, 0xE09E, fun o => .skp (fieldX o)⟩,
    ⟨0xF0FF, 0xE0A1, fun o => .sknp (fieldX o)⟩ ]

/-- Rows 27 to 35 of R86. -/
def tableF : List Row :=
  [ ⟨0xF0FF, 0xF007, fun o => .ldVxDt (fieldX o)⟩,
    ⟨0xF0FF, 0xF015, fun o => .ldDtVx (fieldX o)⟩,
    ⟨0xF0FF, 0xF018, fun o => .ldStVx (fieldX o)⟩,
    ⟨0xF0FF, 0xF00A, fun o => .ldVxK (fieldX o)⟩,
    ⟨0xF0FF, 0xF01E, fun o => .addI (fieldX o)⟩,
    ⟨0xF0FF, 0xF029, fun o => .ldF (fieldX o)⟩,
    ⟨0xF0FF, 0xF033, fun o => .ldB (fieldX o)⟩,
    ⟨0xF0FF, 0xF055, fun o => .storeRegs (fieldX o)⟩,
    ⟨0xF0FF, 0xF065, fun o => .loadRegs (fieldX o)⟩ ]

/-- The 35 rows of R86 in scan order. -/
def table : List Row := tableControl ++ tableAlu ++ tableMixed ++ tableF

/-! ### The decoder (R87, R88) -/

/-- The first row of the table that matches decides; `none` when no row matches, which is a DecodeError (R87, R88). -/
def decodeWord (o : Word) : Option Instr := (table.find? (fun r => r.selects o)).map (fun r => r.build o)

/-- Why a string of bytes is no instruction. -/
inductive DecodeReject where
  /-- Fewer than the two bytes that every instruction has (R80). -/
  | truncated
  /-- The opcode matches no row of the table (R88, R89). -/
  | noMatch (opcode : Word)
  deriving DecidableEq, Repr

/-- Decode the front of a string of bytes: exactly two are consumed, big-endian (R62, R80). -/
def decodeBytes : List Byte → Except DecodeReject (Instr × List Byte)
  | hi :: lo :: rest =>
    match decodeWord (wordOfBytes hi lo) with
    | some i => .ok (i, rest)
    | none => .error (.noMatch (wordOfBytes hi lo))
  | [_] => .error .truncated
  | [] => .error .truncated

/-! ### The encoder (R83, R86) -/

/-- The opcode of an instruction: its pattern with the fields in place. -/
def encode : Instr → Word
  | .cls => 0x00E0
  | .ret => 0x00EE
  | .sys nnn => 0x0#4 ++ nnn
  | .jp nnn => 0x1#4 ++ nnn
  | .call nnn => 0x2#4 ++ nnn
  | .seImm x kk => 0x3#4 ++ x ++ kk
  | .sneImm x kk => 0x4#4 ++ x ++ kk
  | .seReg x y => 0x5#4 ++ x ++ y ++ 0x0#4
  | .ldImm x kk => 0x6#4 ++ x ++ kk
  | .addImm x kk => 0x7#4 ++ x ++ kk
  | .ldReg x y => 0x8#4 ++ x ++ y ++ 0x0#4
  | .orReg x y => 0x8#4 ++ x ++ y ++ 0x1#4
  | .andReg x y => 0x8#4 ++ x ++ y ++ 0x2#4
  | .xorReg x y => 0x8#4 ++ x ++ y ++ 0x3#4
  | .addReg x y => 0x8#4 ++ x ++ y ++ 0x4#4
  | .subReg x y => 0x8#4 ++ x ++ y ++ 0x5#4
  | .shr x y => 0x8#4 ++ x ++ y ++ 0x6#4
  | .subnReg x y => 0x8#4 ++ x ++ y ++ 0x7#4
  | .shl x y => 0x8#4 ++ x ++ y ++ 0xE#4
  | .sneReg x y => 0x9#4 ++ x ++ y ++ 0x0#4
  | .ldI nnn => 0xA#4 ++ nnn
  | .jpV0 nnn => 0xB#4 ++ nnn
  | .rnd x kk => 0xC#4 ++ x ++ kk
  | .drw x y n => 0xD#4 ++ x ++ y ++ n
  | .skp x => 0xE#4 ++ x ++ 0x9E#8
  | .sknp x => 0xE#4 ++ x ++ 0xA1#8
  | .ldVxDt x => 0xF#4 ++ x ++ 0x07#8
  | .ldDtVx x => 0xF#4 ++ x ++ 0x15#8
  | .ldStVx x => 0xF#4 ++ x ++ 0x18#8
  | .ldVxK x => 0xF#4 ++ x ++ 0x0A#8
  | .addI x => 0xF#4 ++ x ++ 0x1E#8
  | .ldF x => 0xF#4 ++ x ++ 0x29#8
  | .ldB x => 0xF#4 ++ x ++ 0x33#8
  | .storeRegs x => 0xF#4 ++ x ++ 0x55#8
  | .loadRegs x => 0xF#4 ++ x ++ 0x65#8

/-- The two bytes of an instruction as memory holds them, lowest address first (R62). -/
def encodeBytes (i : Instr) : List Byte := [highByte (encode i), lowByte (encode i)]

/-! ### The opcode table's numbering -/

/-- The word the host numbers `w` in the opcode table's own numbering: its lowest `nbits` bits, the rest 0. An opcode is one
16-bit word with bit 0 its least significant bit (R13, R80). -/
def tableWord (nbits w : Nat) : Word := BitVec.ofNat 16 (w % 2 ^ nbits)

/-- What the decoder reads from the bytes of the opcode `w`, laid out big-endian (R62). -/
def decodeTableWord (nbits w : Nat) : Option Instr :=
  match decodeBytes [highByte (tableWord nbits w), lowByte (tableWord nbits w)] with
  | .ok (i, _) => some i
  | .error _ => none

end Sys2Proof
end

