-- ==== Sys2Proof/Machine/Flags.lean ====
section
/-! DEFINITION. Every value a flag takes, and the flagged operations of 41_alu.md: each answers the result and the flag. -/

namespace Sys2Proof.Machine

/-- A flag as VF holds it: 1 or 0 (R137 to R141, R186). -/
def flagByte (f : Bool) : Byte := if f then 1 else 0

/-- The unsigned sum exceeds 255 (R137). -/
def carryOut (a b : Byte) : Bool := decide (a.toNat + b.toNat > 255)

/-- `a - b` needs no borrow (R138, R140). -/
def notBorrow (a b : Byte) : Bool := decide (a.toNat ≥ b.toNat)

/-- `8xy4` (R137). -/
def addCarry (vx vy : Byte) : Byte × Bool := (vx + vy, carryOut vx vy)

/-- `8xy5` with `a = Vx, b = Vy` (R138); `8xy7` with `a = Vy, b = Vx` (R140). -/
def subBorrow (a b : Byte) : Byte × Bool := (a - b, notBorrow a b)

/-- `8xy6`: the flag is the bit shifted out, old bit 0 (R139). -/
def shiftRight (vx : Byte) : Byte × Bool := (vx >>> 1, vx.getLsbD 0)

/-- `8xyE`: the flag is the bit shifted out, old bit 7 (R141). -/
def shiftLeft (vx : Byte) : Byte × Bool := (vx <<< 1, vx.getLsbD 7)

end Sys2Proof.Machine
end

