-- ==== Sys2Proof/Machine/State.lean ====
section
/-! DEFINITION. The state of the engine as plain data (10_state.md rule R42), the interface's inputs, and reset. -/

namespace Sys2Proof.Machine

/-- The four fatal errors (R221 to R224). -/
inductive ErrorKind where
  /-- No instruction matches the fetched opcode (R221). -/
  | decodeError
  /-- `2nnn` with `sp = 16` (R222). -/
  | stackOverflow
  /-- `00EE` with `sp = 0` (R223). -/
  | stackUnderflow
  /-- A memory access at an address of 4096 or more (R224). -/
  | outOfBounds
  deriving DecidableEq, Repr

/-- The error record `{kind, pc, opcode, addr}` (R225, R41). -/
structure ErrorRecord where
  /-- Which fatal error. -/
  kind : ErrorKind
  /-- The address of the instruction or fetch that failed. -/
  pc : Word
  /-- The fetched word, or `none` for a fetch out of bounds. -/
  opcode : Option Word
  /-- The lowest out-of-range address; present for OutOfBounds only. -/
  addr : Option Nat
  deriving DecidableEq, Repr

/-- The engine's control state (R40). -/
inductive Mode where
  /-- Cycles fetch and execute. -/
  | running
  /-- `Fx0A` is waiting to write Vx (R204, R207). -/
  | awaitingKey (x : RegIdx)
  /-- A fatal error was raised; nothing changes any more (R97, R220). -/
  | halted (err : ErrorRecord)
  deriving DecidableEq, Repr

/-- The interface's input signals during one step (R240): no engine state (R39), but plain data the step reads. -/
structure Inputs where
  /-- The event the step performs (R229). -/
  event : Event
  /-- The byte a draw returns (R244). -/
  rand : Byte
  /-- Bit `k` is 1 when key `k` is down (R241). -/
  keyDown : BitVec 16
  deriving DecidableEq, Repr

/-- Memory as (address, byte) pairs in one canonical form (`Memory.wf`); an address not listed reads as
`Config.resetByte` says (R51, R60). -/
abbrev Memory := List Host.Cell

/-- The display buffer, row-major: bit `c` of row `r` is the pixel `fb[r][c]` of column `c` and row `r`, which is the linear
element `L = r*64 + c` (R14, R36). -/
abbrev Framebuffer := Vector (BitVec 64) 32

/-- The machine: the state record of R42, the parameter EDGE_POLICY (R9), and the interface's signals (R240). -/
structure State where
  /-- V0 to VF (R20). -/
  v : Vector Byte 16
  /-- The index register I (R24). -/
  i : Word
  /-- The program counter (R25). -/
  pc : Word
  /-- The call stack's entries (R29). -/
  stack : Vector Word 16
  /-- The number of live stack entries, 0 to 16 (R29). -/
  sp : Fin 17
  /-- The delay timer DT (R33). -/
  dt : Byte
  /-- The sound timer ST (R33). -/
  st : Byte
  /-- The display buffer (R36). -/
  fb : Framebuffer
  /-- Running, awaiting a key, or halted (R40). -/
  mode : Mode
  /-- The 4096 bytes of memory (R60). -/
  mem : Memory
  /-- EDGE_POLICY, a parameter that nothing changes (R9; log 4). -/
  edge : EdgePolicy
  /-- How many `present` strobes were emitted since reset (R243; log 14). -/
  presents : Nat
  /-- The input signals the next step reads (R240; log 5, 6, 7). -/
  inputs : Inputs
  /-- The model's own counter, the argument of Config's free values (log 5). -/
  clock : Nat
  deriving DecidableEq, Repr

/-- Why the machine could stop with a fault: never. The engine's four fatal errors are next states whose mode is
`halted` (R94, R220; log 11), and the spec names no other fault, so this type has no constructor. Safe. -/
inductive Fault where
  deriving DecidableEq, Repr

/-- Why the machine gives no meaning. -/
inductive Refusal where
  /-- Raised by an arm of `exec` whose instruction has no meaning yet; no arm does so. Safe. -/
  | notModelled (mnemonic : String)
  /-- Raised by the reset operation for an image of more than 3584 bytes, which has no reset state (R261). Safe. -/
  | imageTooLong (len : Nat)
  deriving DecidableEq, Repr

/-- What a step, an event or a meaning answers. -/
abbrev Result := Host.Outcome State Fault Refusal

/-- The machine right after a reset with the default font, the default edge policy and an empty image (R50, R51, R260).
UNVERIFIED: the zeros and the entry point are the spec's decisions D1, D2, D3, D5 (log 1, 2). The random byte and the
key-down lines are free from the first step on (log 6, 7); the first event is a cycle (DESIGN CHOICE, log 8). -/
def State.reset : State where
  v := Vector.replicate 16 0
  i := 0
  pc := BitVec.ofNat 16 Config.programBase
  stack := Vector.replicate 16 0
  sp := 0
  dt := 0
  st := 0
  fb := Vector.replicate 32 0
  mode := .running
  mem := []
  edge := .linear
  presents := 0
  inputs := { event := .cycle, rand := Config.rand 0, keyDown := Config.keyDown 0 }
  clock := 1

end Sys2Proof.Machine
end

