-- ==== Sys2Proof/Machine/Ops.lean ====
section
/-! DEFINITION. The named operations over registers, memory, stack and `pc`, and raising a fatal error. -/

namespace Sys2Proof.Machine

/-! ### General registers (R20 to R22) -/

/-- `V[r]` (R14, R20). -/
def State.getV (s : State) (r : RegIdx) : Byte := s.v[r.toNat]'(r.isLt)

/-- `V[r] <- b` (R14, R20). -/
def State.setV (s : State) (r : RegIdx) (b : Byte) : State := { s with v := s.v.set r.toNat b r.isLt }

/-- Write VF as a flag (R21). -/
def State.setFlag (s : State) (f : Bool) : State := s.setV 0xF (flagByte f)

/-- Write the result to Vx and then the flag to VF: the flag write is last (R22). -/
def State.setFlagged (s : State) (x : RegIdx) (r : Byte × Bool) : State := (s.setV x r.1).setFlag r.2

/-- Registers `V[k], V[k+1], …` take the bytes of the list, in that order (R166). -/
def loadBytes (v : Vector Byte 16) : Nat → List Byte → Vector Byte 16
  | _, [] => v
  | k, b :: rest => loadBytes (v.setIfInBounds k b) (k + 1) rest

/-! ### Memory (R60 to R77) -/

/-- The byte at address `a` (R69): the last one written, or the reset contents. -/
def Memory.readByte : Memory → Nat → Byte
  | [], a => Config.resetByte a
  | (b, w) :: rest, a => if b = a then w else Memory.readByte rest a

/-- List `w` at `a`, keeping the addresses rising. -/
def Memory.putCell : Memory → Nat → Byte → Memory
  | [], a, w => [(a, w)]
  | (b, u) :: rest, a, w =>
    if a < b then (a, w) :: (b, u) :: rest
    else if b = a then (a, w) :: rest
    else (b, u) :: Memory.putCell rest a w

/-- List nothing at `a`. -/
def Memory.clearCell (m : Memory) (a : Nat) : Memory := m.filter (fun c => c.1 != a)

/-- `MemWrite(a, 1, w)` (R14). Outside the 4096 bytes nothing is written: every caller has checked its addresses
before (R66; log 16). -/
def Memory.writeByte (m : Memory) (a : Nat) (w : Byte) : Memory :=
  if a < Config.memSize then
    if w = Config.resetByte a then m.clearCell a else m.putCell a w
  else m

/-- The canonical form: addresses strictly rising and inside the memory, no entry equal to what an unlisted address
reads as. -/
def Memory.wf (m : Memory) : Bool :=
  decide (m.Pairwise (fun c d => c.1 < d.1)) &&
    m.all (fun c => decide (c.1 < Config.memSize) && c.2 != Config.resetByte c.1)

/-- The `len` bytes from `base` upward (R68, R160). -/
def readBytes (m : Memory) (base len : Nat) : List Byte := (List.range len).map (fun k => m.readByte (base + k))

/-- Store the bytes of the list from `base` upward, lowest address first (R77). -/
def storeBytes (m : Memory) : Nat → List Byte → Memory
  | _, [] => m
  | base, w :: rest => storeBytes (m.writeByte base w) (base + 1) rest

/-- The bounds check of a transfer of `len` bytes at `base`, on unbounded addresses (R64, R65): the lowest
out-of-range address, if there is one (R160). -/
def spanFault (base len : Nat) : Option Nat :=
  if 0 < len ∧ base + len > Config.memSize then some (max base Config.memSize) else none

/-! ### Raising a fatal error (R94, R220, R225, R227) -/

/-- `raise`: the mode becomes `Halted(record)` and everything else stays as it was before the instruction, `pc`
included. There is no other trap entry (R227) and no return from it (R228). -/
def State.raise (s : State) (kind : ErrorKind) (opcode : Option Word) (addr : Option Nat) : State :=
  { s with mode := .halted { kind := kind, pc := s.pc, opcode := opcode, addr := addr } }

/-- A transfer of instruction `i` checks all of its addresses, and only when all are in bounds does it act (R66,
R160). The record's opcode is the instruction's own word (log 12). -/
def State.checkSpan (s : State) (i : Instr) (len : Nat) (act : Result) : Result :=
  match spanFault s.i.toNat len with
  | some addr => .next (s.raise .outOfBounds (some (encode i)) (some addr))
  | none => act

/-! ### Program counter (R25 to R28, R95) -/

/-- The universal end-of-cycle advance: `pc <- (pc + 2) mod 65536` (R94). -/
def State.endCycle (s : State) : State := { s with pc := s.pc + 2 }

/-- A handler's transfer to `t`: `pc <- (t - 2) mod 65536` (R111). -/
def State.jumpTo (s : State) (t : Word) : State := { s with pc := t - 2 }

/-- A handler's skip: `pc <- a + 2` when the condition holds (R110). -/
def State.skipIf (s : State) (c : Bool) : State := { s with pc := if c then s.pc + 2 else s.pc }

/-! ### Call stack (R29 to R32) -/

/-- Push(w): `none` is the overflow, with nothing changed (R30). -/
def State.push (s : State) (w : Word) : Option State :=
  if h : s.sp.val < Config.stackDepth then
    some { s with stack := s.stack.set s.sp.val w h, sp := ⟨s.sp.val + 1, Nat.succ_lt_succ h⟩ }
  else none

/-- Pop(): the popped entry and the state after; `none` is the underflow, with nothing changed. The entry is not
cleared (R31). -/
def State.pop (s : State) : Option (Word × State) :=
  if h : 0 < s.sp.val then
    some (s.stack[s.sp.val - 1]'(Nat.lt_of_lt_of_le (Nat.sub_lt h Nat.one_pos) (Nat.le_of_lt_succ s.sp.isLt)),
      { s with sp := ⟨s.sp.val - 1, Nat.lt_of_le_of_lt (Nat.sub_le _ _) s.sp.isLt⟩ })
  else none

/-! ### Output strobe (R243) -/

/-- Emit `present` once (R187, R243; log 14). -/
def State.present (s : State) : State := { s with presents := s.presents + 1 }

end Sys2Proof.Machine
end

