-- ==== Sys2Proof/Machine/Operands.lean ====
section
/-! DEFINITION. The operand forms: immediates widened with zeros, key numbers, decimal digits, the drawing origin. -/

namespace Sys2Proof.Machine

/-- `zext_16` of the field `nnn` (R82). -/
def zextAddr (nnn : Addr12) : Word := nnn.setWidth 16

/-- `zext_16` of a register (R14). -/
def zextByte (b : Byte) : Word := b.setWidth 16

/-- A key number as a register holds it (R207). -/
def zextKey (k : Nibble) : Byte := k.setWidth 8

/-- `V[x] <= 15 and key_down(V[x])`: a number of 16 or more names no key (R200, R201). -/
def State.keyIsDown (s : State) (key : Byte) : Bool := decide (key.toNat ≤ 15) && s.inputs.keyDown.getLsbD key.toNat

/-- The three decimal digits of a byte, hundreds first (R164). -/
def decimalDigits (b : Byte) : List Byte :=
  [BitVec.ofNat 8 (b.toNat / 100), BitVec.ofNat 8 (b.toNat / 10 % 10), BitVec.ofNat 8 (b.toNat % 10)]

/-- The address of the glyph a register names: `Vx * 5`, not masked (R163). -/
def glyphAddress (b : Byte) : Word := zextByte b * 5

/-- How many registers a transfer up to Vx moves: x + 1 (R165, R166). -/
def regCount (x : RegIdx) : Nat := x.toNat + 1

/-- The bytes of V0 to Vx, V0 first (R165). -/
def State.lowRegs (s : State) (x : RegIdx) : List Byte := s.v.toList.take (regCount x)

/-- The column of a sprite's origin (R186). -/
def originX (vx : Byte) : Nat := vx.toNat % Config.displayWidth

/-- The row of a sprite's origin (R186). -/
def originY (vy : Byte) : Nat := vy.toNat % Config.displayHeight

end Sys2Proof.Machine
end

