-- ==== Sys2Proof/Machine/Alu.lean ====
section
/-! DEFINITION. Register loads, arithmetic, logic and random: 6xkk, 7xkk, 8xy0 to 8xy7, 8xyE, Cxkk (41_alu.md). -/

namespace Sys2Proof.Machine

/-- `6xkk` LD Vx, kk (R131). -/
def execLdImm (x : RegIdx) (kk : Byte) (s : State) : Result := .next (s.setV x kk).endCycle

/-- `7xkk` ADD Vx, kk: no flag (R132, C2). -/
def execAddImm (x : RegIdx) (kk : Byte) (s : State) : Result := .next (s.setV x (s.getV x + kk)).endCycle

/-- `8xy0` LD Vx, Vy (R133). -/
def execLdReg (x y : RegIdx) (s : State) : Result := .next (s.setV x (s.getV y)).endCycle

/-- `8xy1` OR Vx, Vy: VF is not reset (R134). -/
def execOrReg (x y : RegIdx) (s : State) : Result := .next (s.setV x (s.getV x ||| s.getV y)).endCycle

/-- `8xy2` AND Vx, Vy: VF is not reset (R135). -/
def execAndReg (x y : RegIdx) (s : State) : Result := .next (s.setV x (s.getV x &&& s.getV y)).endCycle

/-- `8xy3` XOR Vx, Vy: VF is not reset (R136). -/
def execXorReg (x y : RegIdx) (s : State) : Result := .next (s.setV x (s.getV x ^^^ s.getV y)).endCycle

/-- `8xy4` ADD Vx, Vy (R137). -/
def execAddReg (x y : RegIdx) (s : State) : Result := .next (s.setFlagged x (addCarry (s.getV x) (s.getV y))).endCycle

/-- `8xy5` SUB Vx, Vy (R138). -/
def execSubReg (x y : RegIdx) (s : State) : Result := .next (s.setFlagged x (subBorrow (s.getV x) (s.getV y))).endCycle

/-- `8xy6` SHR Vx: Vy is never read (R139, C1). -/
def execShr (x _y : RegIdx) (s : State) : Result := .next (s.setFlagged x (shiftRight (s.getV x))).endCycle

/-- `8xy7` SUBN Vx, Vy (R140). -/
def execSubnReg (x y : RegIdx) (s : State) : Result := .next (s.setFlagged x (subBorrow (s.getV y) (s.getV x))).endCycle

/-- `8xyE` SHL Vx: Vy is never read (R141, C1). -/
def execShl (x _y : RegIdx) (s : State) : Result := .next (s.setFlagged x (shiftLeft (s.getV x))).endCycle

/-- `Cxkk` RND Vx, kk: the drawn byte is the input of this step, a free value (R142; log 6). -/
def execRnd (x : RegIdx) (kk : Byte) (s : State) : Result := .next (s.setV x (s.inputs.rand &&& kk)).endCycle

end Sys2Proof.Machine
end

