-- ==== Sys2Proof/Machine/Control.lean ====
section
/-! DEFINITION. Control flow: 00EE, 0nnn, 1nnn, 2nnn, 3xkk, 4xkk, 5xy0, 9xy0, Bnnn (40_control_flow.md). -/

namespace Sys2Proof.Machine

/-- `00EE` RET (R112). -/
def execRet (s : State) : Result :=
  match s.pop with
  | some (r, t) => .next { t with pc := r }.endCycle
  | none => .next (s.raise .stackUnderflow (some (encode .ret)) none)

/-- `0nnn` SYS nnn: a legacy machine-code call, ignored (R113). -/
def execSys (_nnn : Addr12) (s : State) : Result := .next s.endCycle

/-- `1nnn` JP nnn (R114). -/
def execJp (nnn : Addr12) (s : State) : Result := .next (s.jumpTo (zextAddr nnn)).endCycle

/-- `2nnn` CALL nnn: the address of the call itself is pushed (R32, R115). -/
def execCall (nnn : Addr12) (s : State) : Result :=
  match s.push s.pc with
  | some t => .next (t.jumpTo (zextAddr nnn)).endCycle
  | none => .next (s.raise .stackOverflow (some (encode (.call nnn))) none)

/-- `3xkk` SE Vx, kk (R116). -/
def execSeImm (x : RegIdx) (kk : Byte) (s : State) : Result := .next (s.skipIf (s.getV x == kk)).endCycle

/-- `4xkk` SNE Vx, kk (R117). -/
def execSneImm (x : RegIdx) (kk : Byte) (s : State) : Result := .next (s.skipIf (s.getV x != kk)).endCycle

/-- `5xy0` SE Vx, Vy (R118). -/
def execSeReg (x y : RegIdx) (s : State) : Result := .next (s.skipIf (s.getV x == s.getV y)).endCycle

/-- `9xy0` SNE Vx, Vy (R119). -/
def execSneReg (x y : RegIdx) (s : State) : Result := .next (s.skipIf (s.getV x != s.getV y)).endCycle

/-- `Bnnn` JP V0, nnn: the register is always V0, and the sum is not reduced modulo 4096 (R120). -/
def execJpV0 (nnn : Addr12) (s : State) : Result := .next (s.jumpTo (zextAddr nnn + zextByte (s.getV 0))).endCycle

end Sys2Proof.Machine
end

