-- ==== Sys2Proof/Machine/Surface.lean ====
section
/-! DEFINITION. The Display Surface: clear and the XOR blit with collision (43_display.md rules R180 to R184). -/

namespace Sys2Proof.Machine

/-- `clear()` (R181). -/
def clearedSurface : Framebuffer := Vector.replicate 32 0

/-- `fbl[l]`, the pixel of linear index `l`, which is `fb[l / 64][l mod 64]` (R14, R36); off the buffer nothing is lit. -/
def pixel (fb : Framebuffer) (l : Nat) : Bool := (fb[l / 64]?.getD 0).getLsbD (l % 64)

/-- `row` with bit `c` set to `b`. -/
def setBit (row : BitVec 64) (c : Nat) (b : Bool) : BitVec 64 :=
  if b then row ||| BitVec.twoPow 64 c else row &&& ~~~ BitVec.twoPow 64 c

/-- `fbl[l] <- b`. -/
def setPixel (fb : Framebuffer) (l : Nat) (b : Bool) : Framebuffer :=
  fb.setIfInBounds (l / 64) (setBit (fb[l / 64]?.getD 0) (l % 64) b)

/-- `Dest(c, r)`: the linear index of the pixel a sprite bit at unreduced column `c` and row `r` reaches, or `none`
(R184). -/
def dest (edge : EdgePolicy) (c r : Nat) : Option Nat :=
  match edge with
  | .linear =>
    if r * Config.displayWidth + c < Config.displayWidth * Config.displayHeight then some (r * Config.displayWidth + c) else none
  | .clip => if c < Config.displayWidth ∧ r < Config.displayHeight then some (r * Config.displayWidth + c) else none
  | .wrap => some (r % Config.displayHeight * Config.displayWidth + c % Config.displayWidth)

/-- One sprite bit: XOR into its pixel, and a collision when a lit pixel goes out (R182, R183). -/
def plotBit (edge : EdgePolicy) (c r : Nat) (bit : Bool) (acc : Framebuffer × Bool) : Framebuffer × Bool :=
  match dest edge c r with
  | none => acc
  | some d => (setPixel acc.1 d (pixel acc.1 d ^^ bit), acc.2 || (pixel acc.1 d && bit))

/-- Bit `b` of a sprite row, counted from the most significant (R182). -/
def spriteBit (row : Byte) (b : Nat) : Bool := row.getMsbD b

/-- The bits `b, b+1, …` (`count` of them) of one sprite row at origin column `ox`, on row `r` (R182). -/
def blitBits (edge : EdgePolicy) (row : Byte) (ox r : Nat) : Nat → Nat → Framebuffer × Bool → Framebuffer × Bool
  | _, 0, acc => acc
  | b, count + 1, acc => blitBits edge row ox r (b + 1) count (plotBit edge (ox + b) r (spriteBit row b) acc)

/-- The rows of a sprite from row `r` downward (R182). -/
def blitRows (edge : EdgePolicy) (ox : Nat) : Nat → List Byte → Framebuffer × Bool → Framebuffer × Bool
  | _, [], acc => acc
  | r, row :: rest, acc => blitRows edge ox (r + 1) rest (blitBits edge row ox r 0 8 acc)

/-- `blit(sprite, ox, oy)`: the new buffer, and whether any pixel was erased (R182). -/
def blit (edge : EdgePolicy) (fb : Framebuffer) (sprite : List Byte) (ox oy : Nat) : Framebuffer × Bool :=
  blitRows edge ox oy sprite (fb, false)

end Sys2Proof.Machine
end

