-- ==== Sys2Proof/Machine/Display.lean ====
section
/-! DEFINITION. The display instructions: 00E0, Dxyn (43_display.md). -/

namespace Sys2Proof.Machine

/-- `00E0` CLS (R185). -/
def execCls (s : State) : Result := .next { s with fb := clearedSurface }.present.endCycle

/-- The blit a `Dxyn` performs: the sprite is the `n` bytes at I, the origin Vx mod 64, Vy mod 32 (R186). -/
def State.drawn (s : State) (x y : RegIdx) (n : Nibble) : Framebuffer × Bool :=
  blit s.edge s.fb (readBytes s.mem s.i.toNat n.toNat) (originX (s.getV x)) (originY (s.getV y))

/-- `Dxyn` DRW Vx, Vy, n: VF, the collision, is written last (R22, R186). -/
def execDrw (x y : RegIdx) (n : Nibble) (s : State) : Result :=
  s.checkSpan (.drw x y n) n.toNat
    (.next ({ s with fb := (s.drawn x y n).1 }.setFlag (s.drawn x y n).2).present.endCycle)

end Sys2Proof.Machine
end

