-- ==== Sys2Proof/Machine/IndexMem.lean ====
section
/-! DEFINITION. The index register and memory transfers: Annn, Fx1E, Fx29, Fx33, Fx55, Fx65 (42_index_memory.md). -/

namespace Sys2Proof.Machine

/-- `Annn` LD I, nnn (R161). -/
def execLdI (nnn : Addr12) (s : State) : Result := .next { s with i := zextAddr nnn }.endCycle

/-- `Fx1E` ADD I, Vx: wraps at 16 bits, no flag, no check (R162). -/
def execAddI (x : RegIdx) (s : State) : Result := .next { s with i := s.i + zextByte (s.getV x) }.endCycle

/-- `Fx29` LD F, Vx (R163). -/
def execLdF (x : RegIdx) (s : State) : Result := .next { s with i := glyphAddress (s.getV x) }.endCycle

/-- `Fx33` LD B, Vx: the decimal digits of Vx at I, I+1, I+2 (R164). -/
def execLdB (x : RegIdx) (s : State) : Result :=
  s.checkSpan (.ldB x) 3 (.next { s with mem := storeBytes s.mem s.i.toNat (decimalDigits (s.getV x)) }.endCycle)

/-- `Fx55` LD [I], Vx: V0 to Vx to memory from I; I is unchanged (R165). -/
def execStoreRegs (x : RegIdx) (s : State) : Result :=
  s.checkSpan (.storeRegs x) (regCount x) (.next { s with mem := storeBytes s.mem s.i.toNat (s.lowRegs x) }.endCycle)

/-- `Fx65` LD Vx, [I]: V0 to Vx from memory at I; I is unchanged (R166). -/
def execLoadRegs (x : RegIdx) (s : State) : Result :=
  s.checkSpan (.loadRegs x) (regCount x)
    (.next { s with v := loadBytes s.v 0 (readBytes s.mem s.i.toNat (regCount x)) }.endCycle)

end Sys2Proof.Machine
end

