-- ==== Sys2Proof/Machine/TimerKey.lean ====
section
/-! DEFINITION. The timer and key instructions: Ex9E, ExA1, Fx07, Fx0A, Fx15, Fx18 (44_timers_keys.md). -/

namespace Sys2Proof.Machine

/-- `Ex9E` SKP Vx (R201). -/
def execSkp (x : RegIdx) (s : State) : Result := .next (s.skipIf (s.keyIsDown (s.getV x))).endCycle

/-- `ExA1` SKNP Vx (R202). -/
def execSknp (x : RegIdx) (s : State) : Result := .next (s.skipIf (!s.keyIsDown (s.getV x))).endCycle

/-- `Fx07` LD Vx, DT (R203). -/
def execLdVxDt (x : RegIdx) (s : State) : Result := .next (s.setV x s.dt).endCycle

/-- `Fx15` LD DT, Vx (R205). -/
def execLdDtVx (x : RegIdx) (s : State) : Result := .next { s with dt := s.getV x }.endCycle

/-- `Fx18` LD ST, Vx (R206). -/
def execLdStVx (x : RegIdx) (s : State) : Result := .next { s with st := s.getV x }.endCycle

/-- `Fx0A` LD Vx, K: enter the wait; `pc` still advances, and Vx is written when the wait ends (R204, R207). -/
def execLdVxK (x : RegIdx) (s : State) : Result := .next { s with mode := .awaitingKey x }.endCycle

end Sys2Proof.Machine
end

