-- ==== Sys2Proof/Machine/Cycle.lean ====
section
/-! DEFINITION. The three events that change the engine's state (60_exceptions.md rule R229): the cycle with its fetch,
the timer tick, and the key press. -/

namespace Sys2Proof.Machine

/-- Fetch the opcode at `pc`, or the out-of-range address; it changes no state (R93). -/
def fetch (s : State) : Except Nat Word :=
  if s.pc.toNat > 4095 then .error s.pc.toNat
  else if s.pc.toNat + 1 > 4095 then .error (s.pc.toNat + 1)
  else .ok (wordOfBytes (s.mem.readByte s.pc.toNat) (s.mem.readByte (s.pc.toNat + 1)))

/-- What a cycle in mode Running does: fetch, decode, execute, in the order of checks of R226 (R94). -/
def runCycle (s : State) : Result :=
  match fetch s with
  | .error addr => .next (s.raise .outOfBounds none (some addr))
  | .ok op =>
    match decodeWord op with
    | some i => exec i s
    | none => .next (s.raise .decodeError (some op) none)

/-- One `cycle` event: nothing while halted (R97) or waiting (R96). -/
def cycle (s : State) : Result :=
  match s.mode with
  | .halted _ => .next s
  | .awaitingKey _ => .next s
  | .running => runCycle s

/-- A timer never falls below 0 (R231). -/
def decay (t : Byte) : Byte := if t = 0 then 0 else t - 1

/-- One `tick` event: each non-zero timer falls by one, but for nothing while halted (R231, R233, R234). -/
def tick (s : State) : State :=
  match s.mode with
  | .halted _ => s
  | .awaitingKey _ => { s with dt := decay s.dt, st := decay s.st }
  | .running => { s with dt := decay s.dt, st := decay s.st }

/-- One `key_press(k)` event: it ends a wait, and is not latched (R207). -/
def keyPress (k : Nibble) (s : State) : State :=
  match s.mode with
  | .halted _ => s
  | .awaitingKey x => { s.setV x (zextKey k) with mode := .running }
  | .running => s

/-- One event (R229). -/
def applyEvent (e : Event) (s : State) : Result :=
  match e with
  | .cycle => cycle s
  | .tick => .next (tick s)
  | .keyPress k => .next (keyPress k s)

/-- The input signals of the next step: free values (log 5, 6, 7). -/
def State.sampleInputs (s : State) : State :=
  { s with
    inputs := { event := Config.event s.clock, rand := Config.rand s.clock, keyDown := Config.keyDown s.clock }
    clock := s.clock + 1 }

/-- Perform the event `e`, and then sample the inputs anew. -/
def stepEvent (e : Event) (s : State) : Result :=
  match applyEvent e s with
  | .next t => .next t.sampleInputs
  | .fault f => .fault f
  | .refused r => .refused r

/-- A list of events, one after the other, with the input signals left as they are: a schedule of the pacer's (R271). -/
def runEvents : List Event → State → Result
  | [], s => .next s
  | e :: rest, s =>
    match applyEvent e s with
    | .next t => runEvents rest t
    | .fault f => .fault f
    | .refused r => .refused r

/-- The bytes of the opcode that the host numbers `w`, stored where the next step fetches, big-endian (R62): a running
machine whose next event is a cycle. A `pc` from which nothing can be fetched (R93) becomes the entry point (log 9). -/
def State.placeWord (s : State) (o : Word) : State :=
  let pc := if s.pc.toNat + 1 ≤ 4095 then s.pc else BitVec.ofNat 16 Config.programBase
  { s with
    pc := pc
    mode := .running
    inputs := { s.inputs with event := .cycle }
    mem := storeBytes s.mem pc.toNat [highByte o, lowByte o] }

end Sys2Proof.Machine
end

