-- ==== Sys2Proof/Machine/Step.lean ====
section
/-! DEFINITION. One step of the machine: the event on its input, and then new inputs. -/

namespace Sys2Proof.Machine

/-- One step performs the event the inputs name (R229). -/
def step (s : State) : Host.Outcome State Fault Refusal := stepEvent s.inputs.event s

/-- The state with the opcode-table word `w` of `nbits` bits where the next step fetches it. -/
def State.withFetchWord (s : State) (nbits w : Nat) : State := s.placeWord (tableWord nbits w)

end Sys2Proof.Machine
end

