-- ==== Sys2Proof/Machine/Boot.lean ====
section
/-! DEFINITION. The reset operation of the loader's signal reset(image) (70_reset_and_hazards.md rules R260, R261). -/

namespace Sys2Proof.Machine

/-- `Reset(image)` with a FONT and an EDGE_POLICY of the implementation's choice (R9, R10): the font from 0x000, the image
from 0x200, zeros between and above, everything else as `State.reset` has it. An image that does not fit is refused. -/
def resetWith (font : Vector Byte 80) (edge : EdgePolicy) (image : List Byte) : Result :=
  if image.length ≤ Config.maxImage then
    .next { State.reset with
      edge := edge
      mem := storeBytes (storeBytes [] 0 font.toList) Config.programBase image }
  else .refused (.imageTooLong image.length)

end Sys2Proof.Machine
end

