-- ==== Sys2Proof/Machine/Interface.lean ====
section
/-! DEFINITION. The output signals of 60_exceptions.md rule R240, and the cause codes of R225. -/

namespace Sys2Proof.Machine

/-- The cause code of a fatal error (R225, D31). -/
def ErrorKind.code : ErrorKind → Nat
  | .decodeError => 1
  | .stackOverflow => 2
  | .stackUnderflow => 3
  | .outOfBounds => 4

/-- What the collaborators see (R240). -/
structure Outputs where
  /-- The 64x32 buffer (R243). -/
  fb : Framebuffer
  /-- How many `present` strobes were emitted (R243). -/
  presents : Nat
  /-- Whether the run has ended in a fatal error (R245). -/
  halted : Bool
  /-- The error record, when it has (R245). -/
  error : Option ErrorRecord
  /-- The sound timer (R246). -/
  st : Byte
  deriving DecidableEq, Repr

/-- The record of the fatal error that halted the machine (R237, R245). -/
def State.error (s : State) : Option ErrorRecord :=
  match s.mode with
  | .halted err => some err
  | .awaitingKey _ => none
  | .running => none

/-- The output signals (R240, R243, R245, R246). -/
def State.outputs (s : State) : Outputs :=
  { fb := s.fb, presents := s.presents, halted := s.error.isSome, error := s.error, st := s.st }

end Sys2Proof.Machine
end

