-- ==== Sys2Proof/Machine/Pacing.lean ====
section
/-! DEFINITION. The pacing contract and the reference schedule (70_reset_and_hazards.md rules R270, R271). They relate
lists of events to real time; no rule of the engine depends on them (log 15). -/

namespace Sys2Proof.Machine

/-- How many cycles a list of events holds: C of R270. -/
def cycleCount (es : List Event) : Nat := es.count .cycle

/-- How many ticks a list of events holds: T of R270. -/
def tickCount (es : List Event) : Nat := es.count .tick

/-- The pacing contract after `t` seconds, `es` being the events so far: `C(t) <= CPU_HZ * t + 1` and `|T(t) - 60 * t| <= 1`
(R270). -/
abbrev Paced (cpuHz : Nat) (t : ℚ) (es : List Event) : Prop :=
  (cycleCount es : ℚ) ≤ cpuHz * t + 1 ∧ |(tickCount es : ℚ) - Config.timerHz * t| ≤ 1

/-- One frame of the reference schedule: `CPU_HZ / 60` cycles and then one tick (R271). DESIGN CHOICE: R271 does not say how
many cycles a frame holds when `CPU_HZ` is no multiple of 60, and the quotient is rounded down (log 22). -/
def referenceFrame (cpuHz : Nat) : List Event := List.replicate (cpuHz / Config.timerHz) .cycle ++ [.tick]

/-- The first `frames` frames of the reference schedule (R271). -/
def referenceSchedule (cpuHz : Nat) : Nat → List Event
  | 0 => []
  | frames + 1 => referenceFrame cpuHz ++ referenceSchedule cpuHz frames

end Sys2Proof.Machine
end

