-- ==== Sys2Proof/Safety.lean ====
section
/-! DEFINITION. The terms claims are stated in: what a step leaves unchanged (30_encoding.md rule R98), the invariant of
the machine (10_state.md rules R28, R29), and what a sprite lights (43_display.md rule R182). -/

namespace Sys2Proof.Machine

/-! ### Frames -/

/-- The pieces of state, one by one: R42's record, and the model's interface fields. -/
inductive Part where
  /-- One general register. -/
  | v (r : RegIdx)
  /-- The index register. -/
  | i
  /-- The program counter. -/
  | pc
  /-- One entry of the call stack. -/
  | stackEntry (k : Fin 16)
  /-- The stack pointer. -/
  | sp
  /-- The delay timer. -/
  | dt
  /-- The sound timer. -/
  | st
  /-- One pixel, by its linear index. -/
  | pixel (l : Fin 2048)
  /-- The mode. -/
  | mode
  /-- One byte of memory, by its address. -/
  | byte (a : Nat)
  /-- EDGE_POLICY. -/
  | edge
  /-- The count of `present` strobes. -/
  | presents
  /-- The input signals. -/
  | inputs
  /-- The model's counter. -/
  | clock
  deriving DecidableEq, Repr

/-- The piece has the same value in both states. -/
def Part.same (s t : State) : Part → Prop
  | .v r => t.getV r = s.getV r
  | .i => t.i = s.i
  | .pc => t.pc = s.pc
  | .stackEntry k => t.stack[k.val] = s.stack[k.val]
  | .sp => t.sp = s.sp
  | .dt => t.dt = s.dt
  | .st => t.st = s.st
  | .pixel l => Machine.pixel t.fb l.val = Machine.pixel s.fb l.val
  | .mode => t.mode = s.mode
  | .byte a => t.mem.readByte a = s.mem.readByte a
  | .edge => t.edge = s.edge
  | .presents => t.presents = s.presents
  | .inputs => t.inputs = s.inputs
  | .clock => t.clock = s.clock

/-- Nothing but the named pieces differs: the frame of an instruction or an event (R98). -/
def UnchangedBut (s t : State) (changed : Part → Prop) : Prop := ∀ p : Part, ¬ changed p → p.same s t

/-- The registers an instruction may write: the "writes" column of R23, with VF for the instructions that write it as a
flag (R21). The write of `Fx0A` happens when the wait ends, and is no part of the instruction (R207). -/
def writesReg : Instr → RegIdx → Bool
  | .ldImm x _, r | .addImm x _, r | .ldReg x _, r | .orReg x _, r | .andReg x _, r | .xorReg x _, r | .rnd x _, r
  | .ldVxDt x, r => decide (r = x)
  | .addReg x _, r | .subReg x _, r | .shr x _, r | .subnReg x _, r | .shl x _, r => decide (r = x ∨ r = 0xF)
  | .drw _ _ _, r => decide (r = 0xF)
  | .loadRegs x, r => decide (r.toNat ≤ x.toNat)
  | .cls, _ | .ret, _ | .sys _, _ | .jp _, _ | .call _, _ | .seImm _ _, _ | .sneImm _ _, _ | .seReg _ _, _
  | .sneReg _ _, _ | .ldI _, _ | .jpV0 _, _ | .skp _, _ | .sknp _, _ | .ldDtVx _, _ | .ldStVx _, _ | .ldVxK _, _
  | .addI _, _ | .ldF _, _ | .ldB _, _ | .storeRegs _, _ => false

/-- The instructions that read an input signal: the random byte (R142) or the key-down lines (R201, R202). -/
def readsInputs : Instr → Bool
  | .rnd _ _ | .skp _ | .sknp _ => true
  | .cls | .ret | .sys _ | .jp _ | .call _ | .seImm _ _ | .sneImm _ _ | .seReg _ _ | .ldImm _ _ | .addImm _ _
  | .ldReg _ _ | .orReg _ _ | .andReg _ _ | .xorReg _ _ | .addReg _ _ | .subReg _ _ | .shr _ _ | .subnReg _ _
  | .shl _ _ | .sneReg _ _ | .ldI _ | .jpV0 _ | .drw _ _ _ | .ldVxDt _ | .ldDtVx _ | .ldStVx _ | .ldVxK _
  | .addI _ | .ldF _ | .ldB _ | .storeRegs _ | .loadRegs _ => false

/-! ### The invariant -/

/-- The instructions that access data in memory, and so can raise OutOfBounds: `Dxyn` with rows to draw, `Fx33`, `Fx55` and
`Fx65` (R224). -/
def accessesData : Instr → Bool
  | .drw _ _ n => decide (n.toNat > 0)
  | .ldB _ | .storeRegs _ | .loadRegs _ => true
  | .cls | .ret | .sys _ | .jp _ | .call _ | .seImm _ _ | .sneImm _ _ | .seReg _ _ | .ldImm _ _ | .addImm _ _
  | .ldReg _ _ | .orReg _ _ | .andReg _ _ | .xorReg _ _ | .addReg _ _ | .subReg _ _ | .shr _ _ | .subnReg _ _
  | .shl _ _ | .sneReg _ _ | .ldI _ | .jpV0 _ | .rnd _ _ | .skp _ | .sknp _ | .ldVxDt _ | .ldDtVx _ | .ldStVx _
  | .ldVxK _ | .addI _ | .ldF _ => false

/-- The record is one that R221 to R225 allow. Without an opcode it is a fetch out of bounds, so `pc` is above 4094 and the
address is the first of `pc` and `pc + 1` that is out of range (R93). With an opcode the fetch succeeded, so `pc` is at most
4094, and the opcode can raise the error: an undecodable word, a CALL, RET, or a word that decodes to an instruction that
accesses data. The address is present for OutOfBounds only, and lies outside the memory. -/
def ErrorRecord.wf (e : ErrorRecord) : Bool :=
  match e.opcode with
  | none => decide (e.kind = .outOfBounds ∧ e.pc.toNat > 4094 ∧ e.addr = some (max e.pc.toNat Config.memSize))
  | some o => decide (e.pc.toNat ≤ 4094) && match e.kind with
    | .decodeError => (decodeWord o).isNone && e.addr.isNone
    | .stackOverflow => decide (o.toNat / 4096 = 2) && e.addr.isNone
    | .stackUnderflow => decide (o = 0x00EE) && e.addr.isNone
    | .outOfBounds => (decodeWord o).any accessesData && e.addr.any (fun a => decide (a ≥ Config.memSize))

/-- What every reachable state satisfies: the memory is in canonical form (log 16), `pc` never passes 0x10FE (R28),
every stack entry is the address of an instruction that was fetched (R32), and a halted machine stands at the
instruction its record names (R220, R225). -/
structure State.Inv (s : State) : Prop where
  mem_wf : s.mem.wf = true
  pc_le : s.pc.toNat ≤ 0x10FE
  stack_le : ∀ k : Fin 16, (s.stack[k.val]).toNat ≤ 4094
  halted_wf : ∀ e, s.mode = .halted e → e.wf = true ∧ e.pc = s.pc

/-! ### Sprites -/

/-- Some 1 bit of the sprite, drawn at origin (ox, oy), has the pixel of linear index `l` as its destination
(R182, R184). -/
def SpriteLights (edge : EdgePolicy) (sprite : List Byte) (ox oy l : Nat) : Prop :=
  ∃ r b row, sprite[r]? = some row ∧ b < 8 ∧ row.toNat / 2 ^ (7 - b) % 2 = 1 ∧ dest edge (ox + b) (oy + r) = some l

/-- The sprite of an `n`-row draw: the bytes at I, I+1, … (R186). -/
def spriteAt (s : State) (n : Nat) : List Byte := (List.range n).map (fun k => s.mem.readByte (s.i.toNat + k))

/-- The word that stands at `pc` and `pc + 1`, as a number: the byte at the lower address is the high one (R62). -/
def wordAtPc (s : State) : Nat := (s.mem.readByte s.pc.toNat).toNat * 256 + (s.mem.readByte (s.pc.toNat + 1)).toNat

/-- The next fetch sees the byte of value `b` at address `a`: as the high byte of the word fetched at `a` (where that word is
in bounds), and as the low byte of the word fetched at `a - 1` (R62, R93). -/
def FetchSees (s : State) (a b : Nat) : Prop :=
  (s.pc.toNat = a → a ≤ 4094 → ∃ o, fetch s = .ok o ∧ o.toNat / 256 = b) ∧
    (s.pc.toNat + 1 = a → ∃ o, fetch s = .ok o ∧ o.toNat % 256 = b)

end Sys2Proof.Machine
end

