-- ==== Sys2Proof/Certificates/Slice0/Obligations.lean ====
section
/-! DEFINITION. The statements for the provers, drawn from the numbered rules of spec/. -/

open Sys2Proof Sys2Proof.Machine

/-! ### Encoding and decoding -/

/-- Decoding an instruction's own word gives it back, with every operand at every value (R83, R84, R86, R87). -/
def Obligations.DecodeInvertsEncode : Prop := ∀ i : Instr, i.wf = true → decodeWord (encode i) = some i

/-- A word has one meaning: the instruction it decodes to is well formed and encodes to that word (R81, R83, R86). -/
def Obligations.EncodeInvertsDecode : Prop :=
  ∀ (o : Word) (i : Instr), decodeWord o = some i → i.wf = true ∧ encode i = o

/-- The table has 35 rows, and every matcher's value lies inside its mask (R85, R86). -/
def Obligations.MatcherValuesLieInMasks : Prop :=
  table.length = 35 ∧ ∀ r ∈ table, r.value &&& r.mask = r.value

/-- Dispatch is the ordered first match; the only overlap is that 0x00E0 and 0x00EE also match `0nnn`, the third row; and
so 0x00E0 is CLS, 0x00EE is RET, and every other opcode up to 0x0FFF is SYS (R87). -/
def Obligations.DispatchIsFirstMatch : Prop :=
  (∀ (o : Word) (k : Nat) (r : Row), table[k]? = some r → o &&& r.mask = r.value →
      (∀ (j : Nat) (q : Row), j < k → table[j]? = some q → o &&& q.mask ≠ q.value) → decodeWord o = some (r.build o)) ∧
    (∀ (o : Word) (j k : Nat) (q r : Row), j < k → table[j]? = some q → table[k]? = some r → o &&& q.mask = q.value →
      o &&& r.mask = r.value → k = 2 ∧ (j = 0 ∧ o = 0x00E0 ∨ j = 1 ∧ o = 0x00EE)) ∧
    ∀ o : Word, o.toNat ≤ 0x0FFF → decodeWord o = some
      (if o = 0x00E0 then .cls else if o = 0x00EE then .ret else .sys (BitVec.ofNat 12 o.toNat))

/-- The opcodes that match no row are exactly those of R89, given by their nibbles. -/
def Obligations.IllegalOpcodesAreExactlyThese : Prop :=
  ∀ o : Word, decodeWord o = none ↔
    (o.toNat / 4096 = 5 ∧ o.toNat % 16 ≠ 0) ∨
    (o.toNat / 4096 = 8 ∧ o.toNat % 16 ∈ [0x8, 0x9, 0xA, 0xB, 0xC, 0xD, 0xF]) ∨
    (o.toNat / 4096 = 9 ∧ o.toNat % 16 ≠ 0) ∨
    (o.toNat / 4096 = 14 ∧ o.toNat % 256 ∉ [0x9E, 0xA1]) ∨
    (o.toNat / 4096 = 15 ∧ o.toNat % 256 ∉ [0x07, 0x0A, 0x15, 0x18, 0x1E, 0x29, 0x33, 0x55, 0x65])

/-- Words written out from the patterns of R86, one or more of every family, decode to what they stand for. -/
def Obligations.WrittenOutWordsDecode : Prop :=
  decodeWord 0x00E0 = some .cls ∧ decodeWord 0x00EE = some .ret ∧ decodeWord 0x0123 = some (.sys 0x123) ∧
  decodeWord 0x2ABC = some (.call 0xABC) ∧ decodeWord 0x3342 = some (.seImm 3 0x42) ∧
  decodeWord 0x8125 = some (.subReg 1 2) ∧ decodeWord 0x84F6 = some (.shr 4 0xF) ∧
  decodeWord 0xBFFF = some (.jpV0 0xFFF) ∧ decodeWord 0xC30F = some (.rnd 3 0x0F) ∧
  decodeWord 0xD127 = some (.drw 1 2 7) ∧ decodeWord 0xE19E = some (.skp 1) ∧ decodeWord 0xF20A = some (.ldVxK 2) ∧
  decodeWord 0xF533 = some (.ldB 5) ∧ decodeWord 0xF165 = some (.loadRegs 1)

/-! ### The step -/

/-- When the two bytes at `pc` decode, a cycle of the running machine is `exec` of that instruction, after which only the
input signals and the model's counter are renewed (R62, R91, R94). -/
def Obligations.StepRunsTheDecodedInstruction : Prop :=
  (∀ (s : State) (i : Instr), s.inputs.event = .cycle → s.mode = .running → s.pc.toNat + 1 ≤ 4095 →
      decodeWord (BitVec.ofNat 16 (wordAtPc s)) = some i →
      ∃ t, exec i s = .next t ∧ step s = .next t.sampleInputs) ∧
    ∀ s : State, UnchangedBut s s.sampleInputs (fun p => p = .inputs ∨ p = .clock)

/-- A word that matches no row halts the machine with a DecodeError that names its address and the word (R88, R221). -/
def Obligations.UndecodableWordHalts : Prop :=
  ∀ s : State, s.inputs.event = .cycle → s.mode = .running → s.pc.toNat + 1 ≤ 4095 →
    decodeWord (BitVec.ofNat 16 (wordAtPc s)) = none →
    step s = .next { s with mode := .halted { kind := .decodeError, pc := s.pc,
                                              opcode := some (BitVec.ofNat 16 (wordAtPc s)), addr := none } }.sampleInputs

/-- The fetch of R93: out of bounds at `pc` or at `pc + 1`, or else the big-endian word; and the halt that a cycle makes of
the two faults. That addresses are not wrapped before the check is the spec's decision D8. -/
def Obligations.FetchIsBoundsChecked : Prop :=
  ∀ s : State,
    (s.pc.toNat > 4095 → fetch s = .error s.pc.toNat) ∧
    (s.pc.toNat = 4095 → fetch s = .error 4096) ∧
    (s.pc.toNat + 1 ≤ 4095 → fetch s = .ok (BitVec.ofNat 16 (wordAtPc s))) ∧
    (∀ a, fetch s = .error a → s.inputs.event = .cycle → s.mode = .running →
      step s = .next { s with mode := .halted { kind := .outOfBounds, pc := s.pc, opcode := none,
                                                addr := some a } }.sampleInputs)

/-- While a key is awaited, a cycle fetches, executes and changes nothing, and only a key press leaves the mode (R96). This is
the spec's decision D18. -/
def Obligations.WaitingCycleChangesNothing : Prop :=
  ∀ (s : State) (x : RegIdx), s.mode = .awaitingKey x →
    (s.inputs.event = .cycle → step s = .next s.sampleInputs) ∧
    ((∀ k, s.inputs.event ≠ .keyPress k) → ∃ t, step s = .next t ∧ t.mode = .awaitingKey x)

/-- In a halted machine no cycle, tick or key press changes any state (R97); the spec's decision D10. -/
def Obligations.HaltedNeverChanges : Prop :=
  ∀ (s : State) (e : ErrorRecord), s.mode = .halted e → step s = .next s.sampleInputs

/-- A tick decrements each non-zero timer by one and changes nothing else, running or waiting; halted, it changes nothing
(R231). That one tick serves both timers is the spec's decision D20, that a halted machine ignores it D10. -/
def Obligations.TickDecrementsNonZeroTimers : Prop :=
  ∀ s : State, s.inputs.event = .tick →
    ((∀ e, s.mode ≠ .halted e) → ∃ t, step s = .next t ∧
      t.dt.toNat = (if s.dt.toNat > 0 then s.dt.toNat - 1 else 0) ∧
      t.st.toNat = (if s.st.toNat > 0 then s.st.toNat - 1 else 0) ∧
      UnchangedBut s t (fun p => p = .dt ∨ p = .st ∨ p = .inputs ∨ p = .clock)) ∧
    (∀ e, s.mode = .halted e → step s = .next s.sampleInputs)

/-- Any number of ticks in a row subtracts that number from each timer, and never goes below 0 (R231, R235). -/
def Obligations.TicksCountDownToZero : Prop :=
  ∀ (n : Nat) (s : State), (∀ e, s.mode ≠ .halted e) →
    ∃ t, runEvents (List.replicate n .tick) s = .next t ∧ t.dt.toNat = s.dt.toNat - n ∧ t.st.toNat = s.st.toNat - n ∧
      UnchangedBut s t (fun p => p = .dt ∨ p = .st)

/-- A key press writes the key to the register that waits for it and resumes; running or halted, it changes nothing
(R207). That presses are not latched and that a held key does not count are the spec's decisions D18 and D19. -/
def Obligations.KeyPressEndsOnlyAWait : Prop :=
  ∀ (s : State) (k : Nibble), s.inputs.event = .keyPress k →
    (∀ x, s.mode = .awaitingKey x → ∃ t, step s = .next t ∧ (t.getV x).toNat = k.toNat ∧ t.mode = .running ∧
      UnchangedBut s t (fun p => p = .v x ∨ p = .mode ∨ p = .inputs ∨ p = .clock)) ∧
    (s.mode = .running → step s = .next s.sampleInputs) ∧
    (∀ e, s.mode = .halted e → step s = .next s.sampleInputs)

/-- Every step answers a next state: a fatal error is a halted state, never a stop of the model (R94, R220; the reading is
DEDUCED, log 11). -/
def Obligations.EveryStepAnswersNext : Prop := ∀ s : State, ∃ t, step s = .next t

/-- A fatal error discards every effect of its cycle: only the mode differs, `pc` stays at the faulting instruction, and
nothing leaves the halted mode (R220); the spec's decisions D9 and D10. -/
def Obligations.FatalErrorChangesOnlyTheMode : Prop :=
  ∀ (s t : State) (e : ErrorRecord), s.mode = .running → step s = .next t → t.mode = .halted e →
    s.inputs.event = .cycle ∧ t = { s with mode := .halted e }.sampleInputs ∧ e.pc = s.pc ∧
      ∃ u, step t = .next u ∧ u.mode = .halted e

/-- Only RET, CALL, LD B, LD [I], LD Vx,[I] and DRW raise, each under its own condition (R16, R222, R223, R224). -/
def Obligations.OnlyTheseInstructionsRaise : Prop :=
  ∀ (i : Instr) (s t : State) (e : ErrorRecord), s.mode = .running → exec i s = .next t → t.mode = .halted e →
    (i = .ret ∧ s.sp.val = 0 ∧ e.kind = .stackUnderflow) ∨
    (∃ nnn, i = .call nnn ∧ s.sp.val = 16 ∧ e.kind = .stackOverflow) ∨
    (e.kind = .outOfBounds ∧ e.addr = some (max s.i.toNat 4096) ∧
      ((∃ x, i = .ldB x ∧ s.i.toNat + 2 ≥ 4096) ∨
       (∃ x, (i = .storeRegs x ∨ i = .loadRegs x) ∧ s.i.toNat + x.toNat ≥ 4096) ∨
       (∃ x y n, i = .drw x y n ∧ n.toNat > 0 ∧ s.i.toNat + n.toNat - 1 ≥ 4096)))

/-! ### Invariants of every step -/

/-- Every step keeps the invariant: canonical memory, `pc` at most 0x10FE, stack entries that are addresses of fetched
instructions, and error records as the spec allows them, with no opcode exactly for a fetch out of bounds and otherwise an
opcode that can raise the error (R28, R32, R221 to R225). The canonical form is the model's own (log 16), the shape of the
record the spec's decision D31. -/
def Obligations.StepKeepsTheInvariant : Prop := ∀ s t : State, s.Inv → step s = .next t → t.Inv

/-- The reset state meets the invariant. Its canonical form of memory is the model's own (log 16), and the values it speaks
of at reset, `pc`, the stack entries and the mode, are the spec's decisions D1 and D2 (log 1). -/
def Obligations.ResetMeetsTheInvariant : Prop := State.reset.Inv

/-- No step changes the edge policy: it is a parameter (R9). The statement is about the model's own field (log 4). -/
def Obligations.EdgePolicyIsFixed : Prop := ∀ s t : State, step s = .next t → t.edge = s.edge

/-! ### Who writes what -/

/-- An instruction changes only the registers that R23 says it writes; VF as a flag only where R21 says so. -/
def Obligations.RegistersChangeOnlyWhereWritten : Prop :=
  ∀ (i : Instr) (s t : State) (r : RegIdx), exec i s = .next t → t.getV r ≠ s.getV r → writesReg i r = true

/-- Only `Fx33` and `Fx55` change memory, and only at the addresses they store to (R68). -/
def Obligations.OnlyStoresChangeMemory : Prop :=
  ∀ (i : Instr) (s t : State) (a : Nat), exec i s = .next t → t.mem.readByte a ≠ s.mem.readByte a →
    (∃ x, i = .ldB x ∧ s.i.toNat ≤ a ∧ a ≤ s.i.toNat + 2) ∨
    (∃ x, i = .storeRegs x ∧ s.i.toNat ≤ a ∧ a ≤ s.i.toNat + x.toNat)

/-- Only `00E0` and `Dxyn` change the display, and only they present it (R36, R243). That the two present is the spec's
decision D30, and the count of strobes is the model's own field (log 14). -/
def Obligations.OnlyClsAndDrwChangeTheDisplay : Prop :=
  ∀ (i : Instr) (s t : State), exec i s = .next t → t.fb ≠ s.fb ∨ t.presents ≠ s.presents →
    i = .cls ∨ ∃ x y n, i = .drw x y n

/-- Only `Annn`, `Fx1E` and `Fx29` change I (R24). -/
def Obligations.OnlyIndexInstructionsChangeI : Prop :=
  ∀ (i : Instr) (s t : State), exec i s = .next t → t.i ≠ s.i →
    (∃ nnn, i = .ldI nnn) ∨ (∃ x, i = .addI x) ∨ ∃ x, i = .ldF x

/-- Only `2nnn` and `00EE` move `sp`, and only `2nnn` writes a stack entry (R30, R31, R32). -/
def Obligations.OnlyCallAndRetTouchTheStack : Prop :=
  ∀ (i : Instr) (s t : State), exec i s = .next t →
    (t.sp ≠ s.sp → i = .ret ∨ ∃ nnn, i = .call nnn) ∧ (t.stack ≠ s.stack → ∃ nnn, i = .call nnn)

/-- Among the instructions only `Fx15` changes DT and only `Fx18` changes ST (R235). -/
def Obligations.OnlyTimerInstructionsChangeTimers : Prop :=
  ∀ (i : Instr) (s t : State), exec i s = .next t →
    (t.dt ≠ s.dt → ∃ x, i = .ldDtVx x) ∧ (t.st ≠ s.st → ∃ x, i = .ldStVx x)

/-- What an instruction does depends on the input signals only for `Cxkk`, `Ex9E` and `ExA1` (R12, R39). -/
def Obligations.OnlyRndAndKeySkipsReadInputs : Prop :=
  ∀ (i : Instr) (s t : State) (other : Inputs), readsInputs i = false → exec i s = .next t →
    exec i { s with inputs := other } = .next { t with inputs := other }

/-! ### Control flow -/

/-- `0nnn` does nothing but advance `pc` (R113). -/
def Obligations.SysOnlyAdvances : Prop :=
  ∀ (nnn : Addr12) (s : State), ∃ t, exec (.sys nnn) s = .next t ∧ t.pc.toNat = (s.pc.toNat + 2) % 65536 ∧
    UnchangedBut s t (fun p => p = .pc)

/-- `1nnn` ends its cycle with `pc = nnn`, for every target (R111, R114). -/
def Obligations.JumpLandsOnItsTarget : Prop :=
  ∀ (nnn : Addr12) (s : State), ∃ t, exec (.jp nnn) s = .next t ∧ t.pc.toNat = nnn.toNat ∧
    UnchangedBut s t (fun p => p = .pc)

/-- `2nnn` pushes its own address and lands on `nnn`; with a full stack it halts with StackOverflow (R115). -/
def Obligations.CallPushesItsAddress : Prop :=
  ∀ (nnn : Addr12) (s : State),
    (∀ h : s.sp.val < 16, ∃ t, exec (.call nnn) s = .next t ∧ t.pc.toNat = nnn.toNat ∧ t.sp.val = s.sp.val + 1 ∧
      t.stack[s.sp.val] = s.pc ∧
      UnchangedBut s t (fun p => p = .pc ∨ p = .sp ∨ p = .stackEntry ⟨s.sp.val, h⟩)) ∧
    (s.sp.val = 16 → exec (.call nnn) s = .next { s with
      mode := .halted { kind := .stackOverflow, pc := s.pc, opcode := some (BitVec.ofNat 16 (0x2000 + nnn.toNat)),
                        addr := none } })

/-- `00EE` resumes two bytes past the popped address; with an empty stack it halts with StackUnderflow (R112). -/
def Obligations.ReturnPopsTheStack : Prop :=
  ∀ s : State,
    (∀ (_ : 0 < s.sp.val) (h : s.sp.val - 1 < 16), ∃ t, exec .ret s = .next t ∧
      t.pc.toNat = ((s.stack[s.sp.val - 1]).toNat + 2) % 65536 ∧ t.sp.val = s.sp.val - 1 ∧
      UnchangedBut s t (fun p => p = .pc ∨ p = .sp)) ∧
    (s.sp.val = 0 → exec .ret s = .next { s with
      mode := .halted { kind := .stackUnderflow, pc := s.pc, opcode := some 0x00EE, addr := none } })

/-- A return, whatever ran since the call as long as the stack is as the call left it, resumes at the instruction after
the call, with the stack pointer of before it (R32). -/
def Obligations.ReturnResumesAfterTheCall : Prop :=
  ∀ (nnn : Addr12) (s t r : State), s.sp.val < 16 → exec (.call nnn) s = .next t → r.sp = t.sp → r.stack = t.stack →
    ∃ u, exec .ret r = .next u ∧ u.pc.toNat = (s.pc.toNat + 2) % 65536 ∧ u.sp = s.sp

/-- `3xkk` skips exactly when Vx equals kk, `4xkk` exactly when it does not (R116, R117). -/
def Obligations.SkipsCompareWithAnImmediate : Prop :=
  ∀ (x : RegIdx) (kk : Byte) (s : State),
    (∃ t, exec (.seImm x kk) s = .next t ∧
      t.pc.toNat = (s.pc.toNat + if s.getV x = kk then 4 else 2) % 65536 ∧ UnchangedBut s t (fun p => p = .pc)) ∧
    (∃ t, exec (.sneImm x kk) s = .next t ∧
      t.pc.toNat = (s.pc.toNat + if s.getV x = kk then 2 else 4) % 65536 ∧ UnchangedBut s t (fun p => p = .pc))

/-- `5xy0` skips exactly when Vx equals Vy, `9xy0` exactly when it does not (R118, R119). -/
def Obligations.SkipsCompareRegisters : Prop :=
  ∀ (x y : RegIdx) (s : State),
    (∃ t, exec (.seReg x y) s = .next t ∧
      t.pc.toNat = (s.pc.toNat + if s.getV x = s.getV y then 4 else 2) % 65536 ∧ UnchangedBut s t (fun p => p = .pc)) ∧
    (∃ t, exec (.sneReg x y) s = .next t ∧
      t.pc.toNat = (s.pc.toNat + if s.getV x = s.getV y then 2 else 4) % 65536 ∧ UnchangedBut s t (fun p => p = .pc))

/-- `Bnnn` ends its cycle with `pc = nnn + V0`, not reduced modulo 4096, at most 0x10FE (R120). -/
def Obligations.JumpPlusV0IsNotReduced : Prop :=
  ∀ (nnn : Addr12) (s : State), ∃ t, exec (.jpV0 nnn) s = .next t ∧ t.pc.toNat = nnn.toNat + (s.getV 0).toNat ∧
    t.pc.toNat ≤ 0x10FE ∧ UnchangedBut s t (fun p => p = .pc)

/-! ### Registers -/

/-- `6xkk` loads kk and `8xy0` copies Vy; neither writes a flag (R131, R133). -/
def Obligations.LoadsCopyTheirOperand : Prop :=
  ∀ (x y : RegIdx) (kk : Byte) (s : State),
    (∃ t, exec (.ldImm x kk) s = .next t ∧ t.getV x = kk ∧ t.pc.toNat = (s.pc.toNat + 2) % 65536 ∧
      UnchangedBut s t (fun p => p = .v x ∨ p = .pc)) ∧
    (∃ t, exec (.ldReg x y) s = .next t ∧ t.getV x = s.getV y ∧ t.pc.toNat = (s.pc.toNat + 2) % 65536 ∧
      UnchangedBut s t (fun p => p = .v x ∨ p = .pc))

/-- `7xkk` adds modulo 256 and writes no flag (R132). -/
def Obligations.AddImmediateWrapsWithoutFlag : Prop :=
  ∀ (x : RegIdx) (kk : Byte) (s : State), ∃ t, exec (.addImm x kk) s = .next t ∧
    (t.getV x).toNat = ((s.getV x).toNat + kk.toNat) % 256 ∧ t.pc.toNat = (s.pc.toNat + 2) % 65536 ∧
    UnchangedBut s t (fun p => p = .v x ∨ p = .pc)

/-- `8xy1`, `8xy2` and `8xy3` are bitwise or, and, exclusive or, and leave VF alone (R134, R135, R136). -/
def Obligations.LogicIsBitwiseAndSparesVF : Prop :=
  ∀ (x y : RegIdx) (s : State),
    (∃ t, exec (.orReg x y) s = .next t ∧
      (∀ b < 8, (t.getV x).getLsbD b = ((s.getV x).getLsbD b || (s.getV y).getLsbD b)) ∧
      t.pc.toNat = (s.pc.toNat + 2) % 65536 ∧ UnchangedBut s t (fun p => p = .v x ∨ p = .pc)) ∧
    (∃ t, exec (.andReg x y) s = .next t ∧
      (∀ b < 8, (t.getV x).getLsbD b = ((s.getV x).getLsbD b && (s.getV y).getLsbD b)) ∧
      t.pc.toNat = (s.pc.toNat + 2) % 65536 ∧ UnchangedBut s t (fun p => p = .v x ∨ p = .pc)) ∧
    (∃ t, exec (.xorReg x y) s = .next t ∧
      (∀ b < 8, (t.getV x).getLsbD b = ((s.getV x).getLsbD b ^^ (s.getV y).getLsbD b)) ∧
      t.pc.toNat = (s.pc.toNat + 2) % 65536 ∧ UnchangedBut s t (fun p => p = .v x ∨ p = .pc))

/-- `8xy4`: VF ends as the carry of the unsigned sum, whatever x; Vx, unless it is VF, as the sum modulo 256
(R22, R137). -/
def Obligations.AddReportsTheCarry : Prop :=
  ∀ (x y : RegIdx) (s : State), ∃ t, exec (.addReg x y) s = .next t ∧
    (t.getV 0xF).toNat = (if (s.getV x).toNat + (s.getV y).toNat > 255 then 1 else 0) ∧
    (x ≠ 0xF → (t.getV x).toNat = ((s.getV x).toNat + (s.getV y).toNat) % 256) ∧
    t.pc.toNat = (s.pc.toNat + 2) % 65536 ∧ UnchangedBut s t (fun p => p = .v x ∨ p = .v 0xF ∨ p = .pc)

/-- `8xy5` and `8xy7`: VF ends as 0 on a borrow and 1 otherwise, whatever x; Vx, unless it is VF, as the difference
modulo 256 (R22, R138, R140). -/
def Obligations.SubtractReportsNotBorrow : Prop :=
  ∀ (x y : RegIdx) (s : State),
    (∃ t, exec (.subReg x y) s = .next t ∧
      (t.getV 0xF).toNat = (if (s.getV x).toNat < (s.getV y).toNat then 0 else 1) ∧
      (x ≠ 0xF → ((t.getV x).toNat : Int) = ((s.getV x).toNat - (s.getV y).toNat : Int) % 256) ∧
      t.pc.toNat = (s.pc.toNat + 2) % 65536 ∧ UnchangedBut s t (fun p => p = .v x ∨ p = .v 0xF ∨ p = .pc)) ∧
    (∃ t, exec (.subnReg x y) s = .next t ∧
      (t.getV 0xF).toNat = (if (s.getV y).toNat ≥ (s.getV x).toNat then 1 else 0) ∧
      (x ≠ 0xF → ((t.getV x).toNat : Int) = ((s.getV y).toNat - (s.getV x).toNat : Int) % 256) ∧
      t.pc.toNat = (s.pc.toNat + 2) % 65536 ∧ UnchangedBut s t (fun p => p = .v x ∨ p = .v 0xF ∨ p = .pc))

/-- `8xy6` and `8xyE` shift Vx by one, Vy unread: VF ends as the bit shifted out, whatever x; Vx, unless it is VF, as the
shifted value (R22, R139, R141). -/
def Obligations.ShiftsReportTheBitShiftedOut : Prop :=
  ∀ (x y : RegIdx) (s : State),
    (∃ t, exec (.shr x y) s = .next t ∧ (t.getV 0xF).toNat = (s.getV x).toNat % 2 ∧
      (x ≠ 0xF → (t.getV x).toNat = (s.getV x).toNat / 2) ∧
      t.pc.toNat = (s.pc.toNat + 2) % 65536 ∧ UnchangedBut s t (fun p => p = .v x ∨ p = .v 0xF ∨ p = .pc)) ∧
    (∃ t, exec (.shl x y) s = .next t ∧ (t.getV 0xF).toNat = (s.getV x).toNat / 128 ∧
      (x ≠ 0xF → (t.getV x).toNat = (s.getV x).toNat * 2 % 256) ∧
      t.pc.toNat = (s.pc.toNat + 2) % 65536 ∧ UnchangedBut s t (fun p => p = .v x ∨ p = .v 0xF ∨ p = .pc))

/-- `Cxkk` writes the drawn byte, whatever it is, masked by kk (R142). -/
def Obligations.RandomByteIsMasked : Prop :=
  ∀ (x : RegIdx) (kk : Byte) (s : State), ∃ t, exec (.rnd x kk) s = .next t ∧
    (∀ b < 8, (t.getV x).getLsbD b = (s.inputs.rand.getLsbD b && kk.getLsbD b)) ∧
    t.pc.toNat = (s.pc.toNat + 2) % 65536 ∧ UnchangedBut s t (fun p => p = .v x ∨ p = .pc)

/-! ### Index register and memory -/

/-- `Annn` loads nnn, `Fx1E` adds Vx modulo 65536 without a flag, `Fx29` takes Vx * 5 unmasked (R161, R162,
R163). The wrap and the missing flag are the spec's decision D11, the missing mask D34. -/
def Obligations.IndexInstructionsSetI : Prop :=
  ∀ (nnn : Addr12) (x : RegIdx) (s : State),
    (∃ t, exec (.ldI nnn) s = .next t ∧ t.i.toNat = nnn.toNat ∧ t.pc.toNat = (s.pc.toNat + 2) % 65536 ∧
      UnchangedBut s t (fun p => p = .i ∨ p = .pc)) ∧
    (∃ t, exec (.addI x) s = .next t ∧ t.i.toNat = (s.i.toNat + (s.getV x).toNat) % 65536 ∧
      t.pc.toNat = (s.pc.toNat + 2) % 65536 ∧ UnchangedBut s t (fun p => p = .i ∨ p = .pc)) ∧
    (∃ t, exec (.ldF x) s = .next t ∧ t.i.toNat = (s.getV x).toNat * 5 ∧ t.pc.toNat = (s.pc.toNat + 2) % 65536 ∧
      UnchangedBut s t (fun p => p = .i ∨ p = .pc))

/-- `Fx33` stores the three decimal digits of Vx, hundreds at I; with I + 2 out of bounds it halts and writes nothing
(R160, R164). -/
def Obligations.DecimalDigitsAreStored : Prop :=
  ∀ (x : RegIdx) (s : State),
    (s.i.toNat + 2 ≤ 4095 → ∃ t, exec (.ldB x) s = .next t ∧
      (t.mem.readByte s.i.toNat).toNat = (s.getV x).toNat / 100 ∧
      (t.mem.readByte (s.i.toNat + 1)).toNat = (s.getV x).toNat / 10 % 10 ∧
      (t.mem.readByte (s.i.toNat + 2)).toNat = (s.getV x).toNat % 10 ∧
      t.pc.toNat = (s.pc.toNat + 2) % 65536 ∧
      UnchangedBut s t (fun p => p = .pc ∨ ∃ k < 3, p = .byte (s.i.toNat + k))) ∧
    (s.i.toNat + 2 > 4095 → exec (.ldB x) s = .next { s with
      mode := .halted { kind := .outOfBounds, pc := s.pc, opcode := some (BitVec.ofNat 16 (0xF033 + x.toNat * 256)),
                        addr := some (max s.i.toNat 4096) } })

/-- `Fx55` stores V0 to Vx from I upward and leaves I alone; with I + x out of bounds it halts and writes nothing
(R160, R165). -/
def Obligations.RegistersAreStored : Prop :=
  ∀ (x : RegIdx) (s : State),
    (s.i.toNat + x.toNat ≤ 4095 → ∃ t, exec (.storeRegs x) s = .next t ∧
      (∀ r : RegIdx, r.toNat ≤ x.toNat → t.mem.readByte (s.i.toNat + r.toNat) = s.getV r) ∧
      t.pc.toNat = (s.pc.toNat + 2) % 65536 ∧
      UnchangedBut s t (fun p => p = .pc ∨ ∃ k ≤ x.toNat, p = .byte (s.i.toNat + k))) ∧
    (s.i.toNat + x.toNat > 4095 → exec (.storeRegs x) s = .next { s with
      mode := .halted { kind := .outOfBounds, pc := s.pc, opcode := some (BitVec.ofNat 16 (0xF055 + x.toNat * 256)),
                        addr := some (max s.i.toNat 4096) } })

/-- `Fx65` loads V0 to Vx from I upward and leaves I and memory alone; with I + x out of bounds it halts and writes no
register (R160, R166). -/
def Obligations.RegistersAreLoaded : Prop :=
  ∀ (x : RegIdx) (s : State),
    (s.i.toNat + x.toNat ≤ 4095 → ∃ t, exec (.loadRegs x) s = .next t ∧
      (∀ r : RegIdx, r.toNat ≤ x.toNat → t.getV r = s.mem.readByte (s.i.toNat + r.toNat)) ∧
      t.pc.toNat = (s.pc.toNat + 2) % 65536 ∧
      UnchangedBut s t (fun p => p = .pc ∨ ∃ r : RegIdx, r.toNat ≤ x.toNat ∧ p = .v r)) ∧
    (s.i.toNat + x.toNat > 4095 → exec (.loadRegs x) s = .next { s with
      mode := .halted { kind := .outOfBounds, pc := s.pc, opcode := some (BitVec.ofNat 16 (0xF065 + x.toNat * 256)),
                        addr := some (max s.i.toNat 4096) } })

/-- Every byte stored by `Fx55` or `Fx33` is what the very next fetch of its address reads, be it the high or the low byte of
the word fetched (R75, R266); the spec's decision D29. -/
def Obligations.StoredBytesAreFetchedNext : Prop :=
  ∀ (x : RegIdx) (s t u : State), u.mem = t.mem →
    (exec (.storeRegs x) s = .next t → s.i.toNat + x.toNat ≤ 4095 →
      ∀ r : RegIdx, r.toNat ≤ x.toNat → FetchSees u (s.i.toNat + r.toNat) (s.getV r).toNat) ∧
    (exec (.ldB x) s = .next t → s.i.toNat + 2 ≤ 4095 →
      FetchSees u s.i.toNat ((s.getV x).toNat / 100) ∧
      FetchSees u (s.i.toNat + 1) ((s.getV x).toNat / 10 % 10) ∧
      FetchSees u (s.i.toNat + 2) ((s.getV x).toNat % 10))

/-! ### Display -/

/-- `00E0` puts out every pixel, presents once, and leaves VF alone (R185). That it presents is the spec's
decision D30, and the strobe count is the model's own field (log 14). -/
def Obligations.ClearPutsOutEveryPixel : Prop :=
  ∀ s : State, ∃ t, exec .cls s = .next t ∧ (∀ l : Fin 2048, pixel t.fb l.val = false) ∧ t.presents = s.presents + 1 ∧
    t.pc.toNat = (s.pc.toNat + 2) % 65536 ∧ UnchangedBut s t (fun p => p = .pc ∨ p = .presents ∨ ∃ l, p = .pixel l)

/-- The blit XORs the sprite's bits into their destinations, and reports a collision exactly when some pixel went from lit
to unlit, under every edge policy (R182, R183). -/
def Obligations.BlitIsTheXorOfTheSprite : Prop :=
  ∀ (edge : EdgePolicy) (fb : Framebuffer) (sprite : List Byte) (ox oy : Nat),
    sprite.length ≤ 15 → ox < 64 → oy < 32 →
    (∀ l : Fin 2048, pixel (blit edge fb sprite ox oy).1 l.val = true ↔
      Xor (pixel fb l.val = true) (SpriteLights edge sprite ox oy l.val)) ∧
    ((blit edge fb sprite ox oy).2 = true ↔
      ∃ l : Fin 2048, pixel fb l.val = true ∧ pixel (blit edge fb sprite ox oy).1 l.val = false)

/-- The destination of a sprite bit under each edge policy (R184). Dropping past the end under `linear` is the spec's
decision D15, treating rows like columns under `clip` and `wrap` D14. -/
def Obligations.DestinationFollowsTheEdgePolicy : Prop :=
  ∀ c r l : Nat,
    (dest .linear c r = some l ↔ r * 64 + c < 2048 ∧ l = r * 64 + c) ∧
    (dest .clip c r = some l ↔ c < 64 ∧ r < 32 ∧ l = r * 64 + c) ∧
    (dest .wrap c r = some l ↔ l = (r % 32) * 64 + c % 64)

/-- `Dxyn` in bounds: the n bytes at I are XORed in at origin (Vx mod 64, Vy mod 32), VF ends as 1 exactly when a lit
pixel was hit, and the buffer is presented once (R186). That no rows draw nothing and give VF = 0 is the spec's decision
D16; the strobe count is the model's own field (log 14). -/
def Obligations.DrawCompositesTheSprite : Prop :=
  ∀ (x y : RegIdx) (n : Nibble) (s : State), (n.toNat = 0 ∨ s.i.toNat + n.toNat - 1 ≤ 4095) →
    ∃ t, exec (.drw x y n) s = .next t ∧
      (∀ l : Fin 2048, pixel t.fb l.val = true ↔ Xor (pixel s.fb l.val = true)
        (SpriteLights s.edge (spriteAt s n.toNat) ((s.getV x).toNat % 64) ((s.getV y).toNat % 32) l.val)) ∧
      ((∃ l : Fin 2048, pixel s.fb l.val = true ∧ pixel t.fb l.val = false) → t.getV 0xF = 1) ∧
      ((∀ l : Fin 2048, pixel s.fb l.val = true → pixel t.fb l.val = true) → t.getV 0xF = 0) ∧
      t.presents = s.presents + 1 ∧ t.pc.toNat = (s.pc.toNat + 2) % 65536 ∧
      UnchangedBut s t (fun p => p = .pc ∨ p = .v 0xF ∨ p = .presents ∨ ∃ l, p = .pixel l)

/-- `Dxyn` with a sprite byte at 4096 or above halts: nothing is drawn, VF is unchanged, nothing is presented
(R160, R186); the spec's decision D9. -/
def Obligations.DrawOutOfBoundsHalts : Prop :=
  ∀ (x y : RegIdx) (n : Nibble) (s : State), n.toNat > 0 → s.i.toNat + n.toNat - 1 > 4095 →
    exec (.drw x y n) s = .next { s with
      mode := .halted { kind := .outOfBounds, pc := s.pc,
                        opcode := some (BitVec.ofNat 16 (0xD000 + x.toNat * 256 + y.toNat * 16 + n.toNat)),
                        addr := some (max s.i.toNat 4096) } }

/-- Drawing the same sprite twice at the same place restores the buffer; where the sprite's pixels were all unlit the
first draw does not collide, and the second collides exactly when the sprite has a 1 bit on the screen (R186, log 18). -/
def Obligations.DrawingTwiceRestoresTheBuffer : Prop :=
  ∀ (x y : RegIdx) (n : Nibble) (s t u : State), x ≠ 0xF → y ≠ 0xF → (n.toNat = 0 ∨ s.i.toNat + n.toNat - 1 ≤ 4095) →
    exec (.drw x y n) s = .next t → exec (.drw x y n) t = .next u →
    (∀ l : Fin 2048, pixel u.fb l.val = pixel s.fb l.val) ∧
    ((∀ l : Fin 2048, SpriteLights s.edge (spriteAt s n.toNat) ((s.getV x).toNat % 64) ((s.getV y).toNat % 32) l.val →
        pixel s.fb l.val = false) →
      t.getV 0xF = 0 ∧ (u.getV 0xF = 1 ↔ ∃ l : Fin 2048,
        SpriteLights s.edge (spriteAt s n.toNat) ((s.getV x).toNat % 64) ((s.getV y).toNat % 32) l.val))

/-! ### Timers and keys -/

/-- `Ex9E` skips exactly when Vx is at most 15 and that key is down, `ExA1` exactly when not (R201, R202). -/
def Obligations.KeySkipsFollowTheKeyLines : Prop :=
  ∀ (x : RegIdx) (s : State),
    (∃ t, exec (.skp x) s = .next t ∧
      t.pc.toNat = (s.pc.toNat +
        if (s.getV x).toNat ≤ 15 ∧ s.inputs.keyDown.getLsbD (s.getV x).toNat = true then 4 else 2) % 65536 ∧
      UnchangedBut s t (fun p => p = .pc)) ∧
    (∃ t, exec (.sknp x) s = .next t ∧
      t.pc.toNat = (s.pc.toNat +
        if (s.getV x).toNat ≤ 15 ∧ s.inputs.keyDown.getLsbD (s.getV x).toNat = true then 2 else 4) % 65536 ∧
      UnchangedBut s t (fun p => p = .pc))

/-- `Fx07` reads DT, `Fx15` writes DT, `Fx18` writes ST (R203, R205, R206). -/
def Obligations.TimerInstructionsMoveBytes : Prop :=
  ∀ (x : RegIdx) (s : State),
    (∃ t, exec (.ldVxDt x) s = .next t ∧ t.getV x = s.dt ∧ t.pc.toNat = (s.pc.toNat + 2) % 65536 ∧
      UnchangedBut s t (fun p => p = .v x ∨ p = .pc)) ∧
    (∃ t, exec (.ldDtVx x) s = .next t ∧ t.dt = s.getV x ∧ t.pc.toNat = (s.pc.toNat + 2) % 65536 ∧
      UnchangedBut s t (fun p => p = .dt ∨ p = .pc)) ∧
    (∃ t, exec (.ldStVx x) s = .next t ∧ t.st = s.getV x ∧ t.pc.toNat = (s.pc.toNat + 2) % 65536 ∧
      UnchangedBut s t (fun p => p = .st ∨ p = .pc))

/-- `Fx0A` enters the wait with `pc` already advanced; Vx is not written yet (R204); the spec's decision D18. -/
def Obligations.WaitForKeyEntersTheWait : Prop :=
  ∀ (x : RegIdx) (s : State), ∃ t, exec (.ldVxK x) s = .next t ∧ t.mode = .awaitingKey x ∧
    t.pc.toNat = (s.pc.toNat + 2) % 65536 ∧ UnchangedBut s t (fun p => p = .mode ∨ p = .pc)

/-! ### Reset and pacing -/

/-- The values of R50 and R51 after a reset with the default font and an empty image, and that this is the reset operation
with those arguments (R50, R51). These are the spec's decisions D1 to D5 (log 1, 2, 3), and the edge policy
`linear` is R9's default, decision D14, in a field of the model's own (log 4). That State.reset is the reset with an empty
image, the clause on `resetWith`, is the model's reading (DEDUCED, log 10). The event, the counter and the strobe count of
the reset state are the model's own (log 5, 8, 14), and nothing is stated of them. -/
def Obligations.ResetStateHoldsTheResetValues : Prop :=
  (∀ r : RegIdx, State.reset.getV r = 0) ∧ State.reset.i = 0 ∧ State.reset.pc = 0x200 ∧
  (∀ k : Fin 16, State.reset.stack[k.val] = 0) ∧ State.reset.sp.val = 0 ∧ State.reset.dt = 0 ∧ State.reset.st = 0 ∧
  (∀ l : Fin 2048, pixel State.reset.fb l.val = false) ∧ State.reset.mode = .running ∧ State.reset.edge = .linear ∧
  (∀ a : Nat, State.reset.mem.readByte a = if a < 80 then Config.font.getD a 0 else 0) ∧ Config.font.length = 80 ∧
  ∀ font : Vector Byte 80, font.toList = Config.font → resetWith font .linear [] = .next State.reset

/-- The reset operation, for every font, edge policy and image of at most 3584 bytes; a longer image is refused
(R260, R261). The values are the spec's decisions D1 to D5, the refusal D25. That the memory is in canonical form is about
the model's own representation (log 16), and the edge policy is a field of the model's own (log 4). -/
def Obligations.ResetLoadsTheImage : Prop :=
  ∀ (font : Vector Byte 80) (edge : EdgePolicy) (image : List Byte),
    (image.length ≤ 3584 → ∃ t, resetWith font edge image = .next t ∧
      (∀ (k : Nat) (h : k < 80), t.mem.readByte k = font[k]) ∧
      (∀ a, 0x050 ≤ a → a < 0x200 → t.mem.readByte a = 0) ∧
      (∀ (k : Nat) (h : k < image.length), t.mem.readByte (0x200 + k) = image[k]) ∧
      (∀ a, 0x200 + image.length ≤ a → t.mem.readByte a = 0) ∧
      (∀ r : RegIdx, t.getV r = 0) ∧ t.i = 0 ∧ t.pc = 0x200 ∧ (∀ k : Fin 16, t.stack[k.val] = 0) ∧ t.sp.val = 0 ∧
      t.dt = 0 ∧ t.st = 0 ∧ (∀ l : Fin 2048, pixel t.fb l.val = false) ∧ t.mode = .running ∧ t.edge = edge ∧
      t.mem.wf = true) ∧
    (image.length > 3584 → resetWith font edge image = .refused (.imageTooLong image.length))

/-- The reference schedule meets the pacing contract at the end of every frame, for every rate that is a multiple of 60
(R270, R271); the schedule is the spec's decision D21. Of other rates, where the model rounds down (log 22), it says
nothing. -/
def Obligations.ReferenceScheduleIsPaced : Prop :=
  ∀ cpuHz frames : Nat, 60 ∣ cpuHz →
    cycleCount (referenceSchedule cpuHz frames) = cpuHz / 60 * frames ∧
    tickCount (referenceSchedule cpuHz frames) = frames ∧
    Paced cpuHz ((frames : ℚ) / 60) (referenceSchedule cpuHz frames)
end

