-- ==== Sys2Proof/Laws/Decode.lean ====
section
/-! SUPPORT. The fields and masks on a word written as its nibbles (30_encoding.md rules R81, R83), and the bytes of a
word. -/

namespace Sys2Proof

/-- A concatenation, as a number. -/
theorem toNat_append_add {n m : Nat} (x : BitVec n) (y : BitVec m) :
    (x ++ y).toNat = x.toNat * 2 ^ m + y.toNat := by
  rw [BitVec.toNat_append, ← Nat.shiftLeft_add_eq_or_of_lt y.isLt, Nat.shiftLeft_eq]

theorem toNat_word_nnn (a : BitVec 4) (d : BitVec 12) : (a ++ d : Word).toNat = a.toNat * 4096 + d.toNat :=
  toNat_append_add a d

theorem toNat_word_byte (a x : BitVec 4) (d : BitVec 8) :
    (a ++ x ++ d : Word).toNat = a.toNat * 4096 + x.toNat * 256 + d.toNat := by
  have h := toNat_append_add (a ++ x) d
  rw [toNat_append_add a x] at h
  exact h.trans (by omega)

theorem toNat_word_nibbles (a x y d : BitVec 4) :
    (a ++ x ++ y ++ d : Word).toNat = a.toNat * 4096 + x.toNat * 256 + y.toNat * 16 + d.toNat := by
  have h := toNat_append_add (a ++ x ++ y) d
  rw [toNat_append_add (a ++ x) y, toNat_append_add a x] at h
  exact h.trans (by omega)

/-! ### Masks -/

theorem and_ones4 (a : BitVec 4) : a &&& 15#4 = a := BitVec.and_allOnes

theorem and_ones8 (a : BitVec 8) : a &&& 255#8 = a := BitVec.and_allOnes

theorem and_maskF000 (a : BitVec 4) (b : BitVec 12) : (a ++ b : Word) &&& (0xF000 : Word) = (a ++ 0#12 : Word) := by
  show ((a ++ b : BitVec (4 + 12)) &&& (0xF#4 ++ 0#12)) = _
  rw [BitVec.and_append, and_ones4, BitVec.and_zero]

theorem and_maskF00F (a x y d : BitVec 4) :
    (a ++ x ++ y ++ d : Word) &&& (0xF00F : Word) = (a ++ 0#4 ++ 0#4 ++ d : Word) := by
  show ((a ++ x ++ y ++ d : BitVec (4 + 4 + 4 + 4)) &&& (0xF#4 ++ 0#4 ++ 0#4 ++ 0xF#4)) = _
  simp only [BitVec.and_append, and_ones4, BitVec.and_zero]

theorem and_maskF0FF (a x : BitVec 4) (d : BitVec 8) :
    (a ++ x ++ d : Word) &&& (0xF0FF : Word) = (a ++ 0#4 ++ d : Word) := by
  show ((a ++ x ++ d : BitVec (4 + 4 + 8)) &&& (0xF#4 ++ 0#4 ++ 0xFF#8)) = _
  simp only [BitVec.and_append, and_ones4, and_ones8, BitVec.and_zero]

theorem and_maskF000_byte (a x : BitVec 4) (d : BitVec 8) :
    (a ++ x ++ d : Word) &&& (0xF000 : Word) = (a ++ 0#4 ++ 0#8 : Word) := by
  show ((a ++ x ++ d : BitVec (4 + 4 + 8)) &&& (0xF#4 ++ 0#4 ++ 0#8)) = _
  simp only [BitVec.and_append, and_ones4, BitVec.and_zero]

theorem and_maskF000_nibbles (a x y d : BitVec 4) :
    (a ++ x ++ y ++ d : Word) &&& (0xF000 : Word) = (a ++ 0#4 ++ 0#4 ++ 0#4 : Word) := by
  show ((a ++ x ++ y ++ d : BitVec (4 + 4 + 4 + 4)) &&& (0xF#4 ++ 0#4 ++ 0#4 ++ 0#4)) = _
  simp only [BitVec.and_append, and_ones4, BitVec.and_zero]

/-! ### Fields -/

theorem fieldNnn_append (a : BitVec 4) (d : BitVec 12) : fieldNnn (a ++ d : Word) = d := by
  apply BitVec.eq_of_toNat_eq
  simp only [fieldNnn, BitVec.extractLsb'_toNat, Nat.shiftRight_eq_div_pow, toNat_append_add]
  have := d.isLt
  omega

theorem fieldX_byte (a x : BitVec 4) (d : BitVec 8) : fieldX (a ++ x ++ d : Word) = x := by
  apply BitVec.eq_of_toNat_eq
  simp only [fieldX, BitVec.extractLsb'_toNat, Nat.shiftRight_eq_div_pow, toNat_append_add]
  have := x.isLt
  have := d.isLt
  omega

theorem fieldKk_byte (a x : BitVec 4) (d : BitVec 8) : fieldKk (a ++ x ++ d : Word) = d := by
  apply BitVec.eq_of_toNat_eq
  simp only [fieldKk, BitVec.extractLsb'_toNat, Nat.shiftRight_eq_div_pow, toNat_append_add]
  have := d.isLt
  omega

theorem fieldX_nibbles (a x y d : BitVec 4) : fieldX (a ++ x ++ y ++ d : Word) = x := by
  apply BitVec.eq_of_toNat_eq
  simp only [fieldX, BitVec.extractLsb'_toNat, Nat.shiftRight_eq_div_pow, toNat_append_add]
  have := x.isLt
  have := y.isLt
  have := d.isLt
  omega

theorem fieldY_nibbles (a x y d : BitVec 4) : fieldY (a ++ x ++ y ++ d : Word) = y := by
  apply BitVec.eq_of_toNat_eq
  simp only [fieldY, BitVec.extractLsb'_toNat, Nat.shiftRight_eq_div_pow, toNat_append_add]
  have := x.isLt
  have := y.isLt
  have := d.isLt
  omega

theorem fieldN_nibbles (a x y d : BitVec 4) : fieldN (a ++ x ++ y ++ d : Word) = d := by
  apply BitVec.eq_of_toNat_eq
  simp only [fieldN, BitVec.extractLsb'_toNat, Nat.shiftRight_eq_div_pow, toNat_append_add]
  have := d.isLt
  omega

/-! ### Bytes (R62) -/

/-- A word put together from two bytes, as a number: the byte at the lower address is the high one. -/
theorem toNat_wordOfBytes (hi lo : Byte) : (wordOfBytes hi lo).toNat = hi.toNat * 256 + lo.toNat :=
  toNat_append_add hi lo

/-- The two bytes of a word make that word again. -/
theorem wordOfBytes_bytes (o : Word) : wordOfBytes (highByte o) (lowByte o) = o := by
  apply BitVec.eq_of_toNat_eq
  rw [toNat_wordOfBytes]
  simp only [highByte, lowByte, BitVec.extractLsb'_toNat, Nat.shiftRight_eq_div_pow]
  have := o.isLt
  omega

end Sys2Proof
end

