-- ==== Sys2Proof/Laws/Memory.lean ====
section
/-! SUPPORT. What the memory operations do (20_memory.md): a read sees the last write and nothing else changes, on any
list; and every operation keeps the canonical form. -/

namespace Sys2Proof.Machine

/-! ### Reading after writing -/

theorem Memory.readByte_putCell (m : Memory) (a c : Nat) (w : Byte) :
    Memory.readByte (m.putCell a w) c = if c = a then w else m.readByte c := by
  induction m with
  | nil =>
    by_cases h : a = c
    · simp [Memory.putCell, Memory.readByte, h]
    · simp [Memory.putCell, Memory.readByte, h, Ne.symm h]
  | cons d rest ih =>
    obtain ⟨b, u⟩ := d
    unfold Memory.putCell
    split
    · by_cases h : a = c
      · simp [Memory.readByte, h]
      · simp [Memory.readByte, h, Ne.symm h]
    · split
      · rename_i hb
        subst hb
        by_cases h : b = c
        · simp [Memory.readByte, h]
        · simp [Memory.readByte, h, Ne.symm h]
      · rename_i hb
        simp only [Memory.readByte, ih]
        split
        · rename_i hc
          subst hc
          simp [hb]
        · rfl

theorem Memory.readByte_clearCell (m : Memory) (a c : Nat) :
    Memory.readByte (m.clearCell a) c = if c = a then Config.resetByte a else m.readByte c := by
  induction m with
  | nil =>
    by_cases h : c = a
    · simp [Memory.clearCell, Memory.readByte, h]
    · simp [Memory.clearCell, Memory.readByte, h]
  | cons d rest ih =>
    obtain ⟨b, u⟩ := d
    simp only [Memory.clearCell] at ih ⊢
    by_cases hb : b = a
    · subst hb
      simp only [List.filter, bne_self_eq_false, ih, Memory.readByte]
      split
      · rfl
      · rename_i h
        simp [Ne.symm h]
    · have : (b != a) = true := by simp [hb]
      simp only [List.filter, this, Memory.readByte, ih]
      split
      · rename_i h
        subst h
        simp [hb]
      · rfl

/-- A byte read after a write: the byte written where it was written, the old one everywhere else (R69). -/
theorem Memory.readByte_writeByte (m : Memory) (a c : Nat) (w : Byte) :
    Memory.readByte (m.writeByte a w) c = if c = a ∧ a < Config.memSize then w else m.readByte c := by
  unfold Memory.writeByte
  by_cases ha : a < Config.memSize
  · simp only [ha, if_true, and_true]
    split
    · rename_i hw
      rw [Memory.readByte_clearCell, hw]
    · rw [Memory.readByte_putCell]
  · simp [ha]

/-- A byte read after a store of several: the byte stored at its place, the old one outside (R68, R77). -/
theorem readByte_storeBytes (m : Memory) (base : Nat) (ws : List Byte) (c : Nat)
    (h : base + ws.length ≤ Config.memSize) :
    Memory.readByte (storeBytes m base ws) c = if base ≤ c then (ws[c - base]?).getD (m.readByte c) else m.readByte c := by
  induction ws generalizing m base with
  | nil => simp [storeBytes]
  | cons w rest ih =>
    have hlt : base < Config.memSize := by simp only [List.length_cons, Config.memSize] at h ⊢; omega
    have hrest : base + 1 + rest.length ≤ Config.memSize := by simp only [List.length_cons] at h; omega
    rw [storeBytes, ih _ _ hrest]
    by_cases hc : base + 1 ≤ c
    · have e : c - base = c - (base + 1) + 1 := by omega
      have hne : c ≠ base := by omega
      simp [hc, show base ≤ c by omega, e, Memory.readByte_writeByte, hne]
    · by_cases hb : base ≤ c
      · have hcb : c = base := by omega
        subst hcb
        simp only [Config.memSize] at hlt
        simp [Memory.readByte_writeByte, hlt]
      · have hne : c ≠ base := by omega
        simp [hc, hb, Memory.readByte_writeByte, hne]

/-- Outside the bytes stored, memory reads as before, whatever the base (R66, R98). -/
theorem readByte_storeBytes_outside (m : Memory) (base : Nat) (ws : List Byte) (c : Nat)
    (h : c < base ∨ base + ws.length ≤ c) : Memory.readByte (storeBytes m base ws) c = m.readByte c := by
  induction ws generalizing m base with
  | nil => rfl
  | cons w rest ih =>
    simp only [List.length_cons] at h
    rw [storeBytes, ih _ _ (by omega), Memory.readByte_writeByte]
    have hne : c ≠ base := by omega
    simp [hne]

@[simp] theorem readBytes_length (m : Memory) (base len : Nat) : (readBytes m base len).length = len := by
  simp [readBytes]

theorem readBytes_getElem? (m : Memory) (base len k : Nat) :
    (readBytes m base len)[k]? = if k < len then some (m.readByte (base + k)) else none := by
  by_cases h : k < len
  · simp [readBytes, h]
  · simp [readBytes, h]

/-! ### The canonical form -/

/-- The canonical form, as a proposition. -/
theorem Memory.wf_iff (m : Memory) :
    m.wf = true ↔ m.Pairwise (fun c d => c.1 < d.1) ∧ ∀ c ∈ m, c.1 < Config.memSize ∧ c.2 ≠ Config.resetByte c.1 := by
  simp [Memory.wf]

theorem Memory.mem_putCell {m : Memory} {a : Nat} {w : Byte} {c : Host.Cell} (h : c ∈ m.putCell a w) :
    c = (a, w) ∨ c ∈ m := by
  induction m with
  | nil => simpa [Memory.putCell] using h
  | cons d rest ih =>
    obtain ⟨b, u⟩ := d
    unfold Memory.putCell at h
    split at h
    · simpa using h
    · split at h
      · rcases List.mem_cons.mp h with h | h
        · exact .inl h
        · exact .inr (List.mem_cons_of_mem _ h)
      · rcases List.mem_cons.mp h with h | h
        · exact .inr (by simp [h])
        · exact (ih h).imp id (List.mem_cons_of_mem _)

theorem Memory.pairwise_putCell {m : Memory} (a : Nat) (w : Byte) (h : m.Pairwise (fun c d => c.1 < d.1)) :
    List.Pairwise (fun c d => c.1 < d.1) (m.putCell a w) := by
  induction m with
  | nil => simp [Memory.putCell]
  | cons d rest ih =>
    obtain ⟨b, u⟩ := d
    obtain ⟨hd, hrest⟩ := List.pairwise_cons.mp h
    unfold Memory.putCell
    split
    · rename_i hab
      refine List.pairwise_cons.mpr ⟨fun c hc => ?_, h⟩
      rcases List.mem_cons.mp hc with rfl | hc
      · exact hab
      · exact Nat.lt_trans hab (hd c hc)
    · split
      · rename_i hba
        subst hba
        exact List.pairwise_cons.mpr ⟨hd, hrest⟩
      · rename_i h1 h2
        refine List.pairwise_cons.mpr ⟨fun c hc => ?_, ih hrest⟩
        rcases Memory.mem_putCell hc with rfl | hc
        · exact Nat.lt_of_le_of_ne (Nat.le_of_not_lt h1) h2
        · exact hd c hc

/-- Writing a byte keeps the canonical form. -/
theorem Memory.wf_writeByte {m : Memory} (a : Nat) (w : Byte) (h : m.wf = true) :
    Memory.wf (m.writeByte a w) = true := by
  obtain ⟨hp, hall⟩ := (Memory.wf_iff m).mp h
  unfold Memory.writeByte
  split
  · rename_i ha
    split
    · exact (Memory.wf_iff _).mpr ⟨hp.filter _, fun c hc => hall c (List.mem_filter.mp hc).1⟩
    · rename_i hw
      refine (Memory.wf_iff _).mpr ⟨Memory.pairwise_putCell a w hp, fun c hc => ?_⟩
      rcases Memory.mem_putCell hc with rfl | hc
      · exact ⟨ha, hw⟩
      · exact hall c hc
  · exact h

/-- Storing bytes keeps the canonical form. -/
theorem wf_storeBytes {m : Memory} (base : Nat) (ws : List Byte) (h : m.wf = true) :
    Memory.wf (storeBytes m base ws) = true := by
  induction ws generalizing m base with
  | nil => exact h
  | cons w rest ih => exact ih _ (Memory.wf_writeByte base w h)

end Sys2Proof.Machine
end

