-- ==== Sys2Proof/Laws/State.lean ====
section
/-! SUPPORT. One lemma per field of State per named update (Machine/Ops.lean, Machine/Cycle.lean): the field after the
update. All are true by definition, and no later proof unfolds a record update of these operations. -/

namespace Sys2Proof.Machine

/-! ### setV -/

@[simp] theorem State.setV_v (s : State) (r : RegIdx) (b : Byte) : (s.setV r b).v = s.v.set r.toNat b r.isLt := rfl
@[simp] theorem State.setV_i (s : State) (r : RegIdx) (b : Byte) : (s.setV r b).i = s.i := rfl
@[simp] theorem State.setV_pc (s : State) (r : RegIdx) (b : Byte) : (s.setV r b).pc = s.pc := rfl
@[simp] theorem State.setV_stack (s : State) (r : RegIdx) (b : Byte) : (s.setV r b).stack = s.stack := rfl
@[simp] theorem State.setV_sp (s : State) (r : RegIdx) (b : Byte) : (s.setV r b).sp = s.sp := rfl
@[simp] theorem State.setV_dt (s : State) (r : RegIdx) (b : Byte) : (s.setV r b).dt = s.dt := rfl
@[simp] theorem State.setV_st (s : State) (r : RegIdx) (b : Byte) : (s.setV r b).st = s.st := rfl
@[simp] theorem State.setV_fb (s : State) (r : RegIdx) (b : Byte) : (s.setV r b).fb = s.fb := rfl
@[simp] theorem State.setV_mode (s : State) (r : RegIdx) (b : Byte) : (s.setV r b).mode = s.mode := rfl
@[simp] theorem State.setV_mem (s : State) (r : RegIdx) (b : Byte) : (s.setV r b).mem = s.mem := rfl
@[simp] theorem State.setV_edge (s : State) (r : RegIdx) (b : Byte) : (s.setV r b).edge = s.edge := rfl
@[simp] theorem State.setV_presents (s : State) (r : RegIdx) (b : Byte) : (s.setV r b).presents = s.presents := rfl
@[simp] theorem State.setV_inputs (s : State) (r : RegIdx) (b : Byte) : (s.setV r b).inputs = s.inputs := rfl
@[simp] theorem State.setV_clock (s : State) (r : RegIdx) (b : Byte) : (s.setV r b).clock = s.clock := rfl

/-! ### raise -/

@[simp] theorem State.raise_v (s : State) (k : ErrorKind) (o : Option Word) (a : Option Nat) : (s.raise k o a).v = s.v := rfl
@[simp] theorem State.raise_i (s : State) (k : ErrorKind) (o : Option Word) (a : Option Nat) : (s.raise k o a).i = s.i := rfl
@[simp] theorem State.raise_pc (s : State) (k : ErrorKind) (o : Option Word) (a : Option Nat) : (s.raise k o a).pc = s.pc := rfl
@[simp] theorem State.raise_stack (s : State) (k : ErrorKind) (o : Option Word) (a : Option Nat) : (s.raise k o a).stack = s.stack := rfl
@[simp] theorem State.raise_sp (s : State) (k : ErrorKind) (o : Option Word) (a : Option Nat) : (s.raise k o a).sp = s.sp := rfl
@[simp] theorem State.raise_dt (s : State) (k : ErrorKind) (o : Option Word) (a : Option Nat) : (s.raise k o a).dt = s.dt := rfl
@[simp] theorem State.raise_st (s : State) (k : ErrorKind) (o : Option Word) (a : Option Nat) : (s.raise k o a).st = s.st := rfl
@[simp] theorem State.raise_fb (s : State) (k : ErrorKind) (o : Option Word) (a : Option Nat) : (s.raise k o a).fb = s.fb := rfl
@[simp] theorem State.raise_mode (s : State) (k : ErrorKind) (o : Option Word) (a : Option Nat) : (s.raise k o a).mode = .halted { kind := k, pc := s.pc, opcode := o, addr := a } := rfl
@[simp] theorem State.raise_mem (s : State) (k : ErrorKind) (o : Option Word) (a : Option Nat) : (s.raise k o a).mem = s.mem := rfl
@[simp] theorem State.raise_edge (s : State) (k : ErrorKind) (o : Option Word) (a : Option Nat) : (s.raise k o a).edge = s.edge := rfl
@[simp] theorem State.raise_presents (s : State) (k : ErrorKind) (o : Option Word) (a : Option Nat) : (s.raise k o a).presents = s.presents := rfl
@[simp] theorem State.raise_inputs (s : State) (k : ErrorKind) (o : Option Word) (a : Option Nat) : (s.raise k o a).inputs = s.inputs := rfl
@[simp] theorem State.raise_clock (s : State) (k : ErrorKind) (o : Option Word) (a : Option Nat) : (s.raise k o a).clock = s.clock := rfl

/-! ### endCycle -/

@[simp] theorem State.endCycle_v (s : State) : s.endCycle.v = s.v := rfl
@[simp] theorem State.endCycle_i (s : State) : s.endCycle.i = s.i := rfl
@[simp] theorem State.endCycle_pc (s : State) : s.endCycle.pc = s.pc + 2 := rfl
@[simp] theorem State.endCycle_stack (s : State) : s.endCycle.stack = s.stack := rfl
@[simp] theorem State.endCycle_sp (s : State) : s.endCycle.sp = s.sp := rfl
@[simp] theorem State.endCycle_dt (s : State) : s.endCycle.dt = s.dt := rfl
@[simp] theorem State.endCycle_st (s : State) : s.endCycle.st = s.st := rfl
@[simp] theorem State.endCycle_fb (s : State) : s.endCycle.fb = s.fb := rfl
@[simp] theorem State.endCycle_mode (s : State) : s.endCycle.mode = s.mode := rfl
@[simp] theorem State.endCycle_mem (s : State) : s.endCycle.mem = s.mem := rfl
@[simp] theorem State.endCycle_edge (s : State) : s.endCycle.edge = s.edge := rfl
@[simp] theorem State.endCycle_presents (s : State) : s.endCycle.presents = s.presents := rfl
@[simp] theorem State.endCycle_inputs (s : State) : s.endCycle.inputs = s.inputs := rfl
@[simp] theorem State.endCycle_clock (s : State) : s.endCycle.clock = s.clock := rfl

/-! ### jumpTo -/

@[simp] theorem State.jumpTo_v (s : State) (w : Word) : (s.jumpTo w).v = s.v := rfl
@[simp] theorem State.jumpTo_i (s : State) (w : Word) : (s.jumpTo w).i = s.i := rfl
@[simp] theorem State.jumpTo_pc (s : State) (w : Word) : (s.jumpTo w).pc = w - 2 := rfl
@[simp] theorem State.jumpTo_stack (s : State) (w : Word) : (s.jumpTo w).stack = s.stack := rfl
@[simp] theorem State.jumpTo_sp (s : State) (w : Word) : (s.jumpTo w).sp = s.sp := rfl
@[simp] theorem State.jumpTo_dt (s : State) (w : Word) : (s.jumpTo w).dt = s.dt := rfl
@[simp] theorem State.jumpTo_st (s : State) (w : Word) : (s.jumpTo w).st = s.st := rfl
@[simp] theorem State.jumpTo_fb (s : State) (w : Word) : (s.jumpTo w).fb = s.fb := rfl
@[simp] theorem State.jumpTo_mode (s : State) (w : Word) : (s.jumpTo w).mode = s.mode := rfl
@[simp] theorem State.jumpTo_mem (s : State) (w : Word) : (s.jumpTo w).mem = s.mem := rfl
@[simp] theorem State.jumpTo_edge (s : State) (w : Word) : (s.jumpTo w).edge = s.edge := rfl
@[simp] theorem State.jumpTo_presents (s : State) (w : Word) : (s.jumpTo w).presents = s.presents := rfl
@[simp] theorem State.jumpTo_inputs (s : State) (w : Word) : (s.jumpTo w).inputs = s.inputs := rfl
@[simp] theorem State.jumpTo_clock (s : State) (w : Word) : (s.jumpTo w).clock = s.clock := rfl

/-! ### skipIf -/

@[simp] theorem State.skipIf_v (s : State) (c : Bool) : (s.skipIf c).v = s.v := rfl
@[simp] theorem State.skipIf_i (s : State) (c : Bool) : (s.skipIf c).i = s.i := rfl
@[simp] theorem State.skipIf_pc (s : State) (c : Bool) : (s.skipIf c).pc = if c then s.pc + 2 else s.pc := rfl
@[simp] theorem State.skipIf_stack (s : State) (c : Bool) : (s.skipIf c).stack = s.stack := rfl
@[simp] theorem State.skipIf_sp (s : State) (c : Bool) : (s.skipIf c).sp = s.sp := rfl
@[simp] theorem State.skipIf_dt (s : State) (c : Bool) : (s.skipIf c).dt = s.dt := rfl
@[simp] theorem State.skipIf_st (s : State) (c : Bool) : (s.skipIf c).st = s.st := rfl
@[simp] theorem State.skipIf_fb (s : State) (c : Bool) : (s.skipIf c).fb = s.fb := rfl
@[simp] theorem State.skipIf_mode (s : State) (c : Bool) : (s.skipIf c).mode = s.mode := rfl
@[simp] theorem State.skipIf_mem (s : State) (c : Bool) : (s.skipIf c).mem = s.mem := rfl
@[simp] theorem State.skipIf_edge (s : State) (c : Bool) : (s.skipIf c).edge = s.edge := rfl
@[simp] theorem State.skipIf_presents (s : State) (c : Bool) : (s.skipIf c).presents = s.presents := rfl
@[simp] theorem State.skipIf_inputs (s : State) (c : Bool) : (s.skipIf c).inputs = s.inputs := rfl
@[simp] theorem State.skipIf_clock (s : State) (c : Bool) : (s.skipIf c).clock = s.clock := rfl

/-! ### present -/

@[simp] theorem State.present_v (s : State) : s.present.v = s.v := rfl
@[simp] theorem State.present_i (s : State) : s.present.i = s.i := rfl
@[simp] theorem State.present_pc (s : State) : s.present.pc = s.pc := rfl
@[simp] theorem State.present_stack (s : State) : s.present.stack = s.stack := rfl
@[simp] theorem State.present_sp (s : State) : s.present.sp = s.sp := rfl
@[simp] theorem State.present_dt (s : State) : s.present.dt = s.dt := rfl
@[simp] theorem State.present_st (s : State) : s.present.st = s.st := rfl
@[simp] theorem State.present_fb (s : State) : s.present.fb = s.fb := rfl
@[simp] theorem State.present_mode (s : State) : s.present.mode = s.mode := rfl
@[simp] theorem State.present_mem (s : State) : s.present.mem = s.mem := rfl
@[simp] theorem State.present_edge (s : State) : s.present.edge = s.edge := rfl
@[simp] theorem State.present_presents (s : State) : s.present.presents = s.presents + 1 := rfl
@[simp] theorem State.present_inputs (s : State) : s.present.inputs = s.inputs := rfl
@[simp] theorem State.present_clock (s : State) : s.present.clock = s.clock := rfl

/-! ### setFlag -/

@[simp] theorem State.setFlag_v (s : State) (f : Bool) : (s.setFlag f).v = s.v.set 15 (flagByte f) (by decide) := rfl
@[simp] theorem State.setFlag_i (s : State) (f : Bool) : (s.setFlag f).i = s.i := rfl
@[simp] theorem State.setFlag_pc (s : State) (f : Bool) : (s.setFlag f).pc = s.pc := rfl
@[simp] theorem State.setFlag_stack (s : State) (f : Bool) : (s.setFlag f).stack = s.stack := rfl
@[simp] theorem State.setFlag_sp (s : State) (f : Bool) : (s.setFlag f).sp = s.sp := rfl
@[simp] theorem State.setFlag_dt (s : State) (f : Bool) : (s.setFlag f).dt = s.dt := rfl
@[simp] theorem State.setFlag_st (s : State) (f : Bool) : (s.setFlag f).st = s.st := rfl
@[simp] theorem State.setFlag_fb (s : State) (f : Bool) : (s.setFlag f).fb = s.fb := rfl
@[simp] theorem State.setFlag_mode (s : State) (f : Bool) : (s.setFlag f).mode = s.mode := rfl
@[simp] theorem State.setFlag_mem (s : State) (f : Bool) : (s.setFlag f).mem = s.mem := rfl
@[simp] theorem State.setFlag_edge (s : State) (f : Bool) : (s.setFlag f).edge = s.edge := rfl
@[simp] theorem State.setFlag_presents (s : State) (f : Bool) : (s.setFlag f).presents = s.presents := rfl
@[simp] theorem State.setFlag_inputs (s : State) (f : Bool) : (s.setFlag f).inputs = s.inputs := rfl
@[simp] theorem State.setFlag_clock (s : State) (f : Bool) : (s.setFlag f).clock = s.clock := rfl

/-! ### sampleInputs -/

@[simp] theorem State.sampleInputs_v (s : State) : s.sampleInputs.v = s.v := rfl
@[simp] theorem State.sampleInputs_i (s : State) : s.sampleInputs.i = s.i := rfl
@[simp] theorem State.sampleInputs_pc (s : State) : s.sampleInputs.pc = s.pc := rfl
@[simp] theorem State.sampleInputs_stack (s : State) : s.sampleInputs.stack = s.stack := rfl
@[simp] theorem State.sampleInputs_sp (s : State) : s.sampleInputs.sp = s.sp := rfl
@[simp] theorem State.sampleInputs_dt (s : State) : s.sampleInputs.dt = s.dt := rfl
@[simp] theorem State.sampleInputs_st (s : State) : s.sampleInputs.st = s.st := rfl
@[simp] theorem State.sampleInputs_fb (s : State) : s.sampleInputs.fb = s.fb := rfl
@[simp] theorem State.sampleInputs_mode (s : State) : s.sampleInputs.mode = s.mode := rfl
@[simp] theorem State.sampleInputs_mem (s : State) : s.sampleInputs.mem = s.mem := rfl
@[simp] theorem State.sampleInputs_edge (s : State) : s.sampleInputs.edge = s.edge := rfl
@[simp] theorem State.sampleInputs_presents (s : State) : s.sampleInputs.presents = s.presents := rfl
@[simp] theorem State.sampleInputs_inputs (s : State) : s.sampleInputs.inputs = { event := Config.event s.clock, rand := Config.rand s.clock, keyDown := Config.keyDown s.clock } := rfl
@[simp] theorem State.sampleInputs_clock (s : State) : s.sampleInputs.clock = s.clock + 1 := rfl

/-! ### Registers -/

/-- Reading a register after writing one. -/
@[simp] theorem State.getV_setV (s : State) (r q : RegIdx) (b : Byte) :
    (s.setV r b).getV q = if q = r then b else s.getV q := by
  unfold State.getV State.setV
  by_cases h : q = r
  · subst h
    simp
  · have hne : r.toNat ≠ q.toNat := fun e => h (BitVec.eq_of_toNat_eq e.symm)
    simp [h, hne]

/-- VF after a flag write is the flag; every other register is as before (R21). -/
@[simp] theorem State.getV_setFlag (s : State) (q : RegIdx) (f : Bool) :
    (s.setFlag f).getV q = if q = 0xF then flagByte f else s.getV q := s.getV_setV 0xF q (flagByte f)

/-- Registers after a flagged result: the flag is written last, so it wins where Vx is VF (R22). -/
theorem State.getV_setFlagged (s : State) (x q : RegIdx) (r : Byte × Bool) :
    (s.setFlagged x r).getV q = if q = 0xF then flagByte r.2 else if q = x then r.1 else s.getV q := by
  simp [State.setFlagged]

@[simp] theorem State.getV_raise (s : State) (k : ErrorKind) (o : Option Word) (a : Option Nat) (q : RegIdx) : (s.raise k o a).getV q = s.getV q := rfl
@[simp] theorem State.getV_endCycle (s : State) (q : RegIdx) : s.endCycle.getV q = s.getV q := rfl
@[simp] theorem State.getV_jumpTo (s : State) (w : Word) (q : RegIdx) : (s.jumpTo w).getV q = s.getV q := rfl
@[simp] theorem State.getV_skipIf (s : State) (c : Bool) (q : RegIdx) : (s.skipIf c).getV q = s.getV q := rfl
@[simp] theorem State.getV_present (s : State) (q : RegIdx) : s.present.getV q = s.getV q := rfl
@[simp] theorem State.getV_sampleInputs (s : State) (q : RegIdx) : s.sampleInputs.getV q = s.getV q := rfl

end Sys2Proof.Machine
end

