-- ==== Sys2Proof/Laws/Ops.lean ====
section
/-! SUPPORT. What each shared operation can answer, said once: the bounds check, push and pop, loading registers, the
fetch, and one event. -/

namespace Sys2Proof.Machine

/-! ### Bounds (R64 to R66, R160) -/

theorem spanFault_eq_none_iff (base len : Nat) : spanFault base len = none ↔ len = 0 ∨ base + len ≤ Config.memSize := by
  unfold spanFault
  split <;> simp_all <;> omega

theorem spanFault_eq_some_iff (base len a : Nat) :
    spanFault base len = some a ↔ 0 < len ∧ base + len > Config.memSize ∧ a = max base Config.memSize := by
  unfold spanFault
  split
  · rename_i h
    simp [h.1, h.2, eq_comm]
  · rename_i h
    simp only [reduceCtorEq, false_iff]
    exact fun h' => h ⟨h'.1, h'.2.1⟩

/-- A transfer acts when all of its addresses are in bounds, and raises OutOfBounds otherwise. -/
theorem State.checkSpan_cases (s : State) (i : Instr) (len : Nat) (act : Result) :
    (len = 0 ∨ s.i.toNat + len ≤ Config.memSize) ∧ s.checkSpan i len act = act ∨
      (0 < len ∧ s.i.toNat + len > Config.memSize) ∧
        s.checkSpan i len act = .next (s.raise .outOfBounds (some (encode i)) (some (max s.i.toNat Config.memSize))) := by
  unfold State.checkSpan
  split
  · rename_i a ha
    obtain ⟨h1, h2, rfl⟩ := (spanFault_eq_some_iff _ _ _).mp ha
    exact .inr ⟨⟨h1, h2⟩, rfl⟩
  · rename_i hn
    exact .inl ⟨(spanFault_eq_none_iff _ _).mp hn, rfl⟩

/-! ### Stack (R30, R31) -/

theorem State.push_eq_none_iff (s : State) (w : Word) : s.push w = none ↔ s.sp = 16 := by
  unfold State.push
  split
  · rename_i h
    simp only [reduceCtorEq, false_iff]
    intro e
    rw [e] at h
    exact absurd h (by decide)
  · rename_i h
    have : s.sp.val = 16 := by
      have := s.sp.isLt
      simp only [Config.stackDepth] at h
      omega
    simp [Fin.ext_iff, this]

/-- A push that succeeds writes one entry and raises `sp` by one. -/
theorem State.push_eq_some {s t : State} {w : Word} (h : s.push w = some t) :
    ∃ hlt : s.sp.val < 16, t = { s with
      stack := s.stack.set s.sp.val w hlt
      sp := ⟨s.sp.val + 1, Nat.succ_lt_succ hlt⟩ } := by
  unfold State.push at h
  split at h
  · rename_i hlt
    exact ⟨hlt, (Option.some.inj h).symm⟩
  · simp at h

theorem State.pop_eq_none_iff (s : State) : s.pop = none ↔ s.sp = 0 := by
  unfold State.pop
  split
  · rename_i h
    simp only [reduceCtorEq, false_iff]
    intro e
    rw [e] at h
    exact absurd h (by decide)
  · rename_i h
    simp only [true_iff]
    exact Fin.ext (Nat.le_zero.mp (Nat.le_of_not_lt h))

/-- A pop that succeeds answers the top entry and lowers `sp` by one; the entries stay. -/
theorem State.pop_eq_some {s t : State} {w : Word} (h : s.pop = some (w, t)) :
    0 < s.sp.val ∧ ∃ hlt : s.sp.val - 1 < 16,
      w = s.stack[s.sp.val - 1] ∧ t = { s with sp := ⟨s.sp.val - 1, Nat.lt_succ_of_lt hlt⟩ } := by
  unfold State.pop at h
  split at h
  · rename_i hpos
    have e := Option.some.inj h
    exact ⟨hpos, by have := s.sp.isLt; omega, (Prod.mk.inj e).1.symm, (Prod.mk.inj e).2.symm⟩
  · simp at h

/-! ### Loading registers (R166) -/

/-- Register `q` after loading a list from register `k`: its byte of the list, or as before. -/
theorem getElem_loadBytes (v : Vector Byte 16) (k : Nat) (ws : List Byte) (q : Nat) (hq : q < 16) :
    (loadBytes v k ws)[q] = if k ≤ q then (ws[q - k]?).getD v[q] else v[q] := by
  induction ws generalizing v k with
  | nil => simp [loadBytes]
  | cons w rest ih =>
    rw [loadBytes, ih]
    by_cases h : k + 1 ≤ q
    · have e : q - k = q - (k + 1) + 1 := by omega
      have hne : k ≠ q := by omega
      simp [h, show k ≤ q by omega, e, hne]
    · by_cases hk : k ≤ q
      · have e : k = q := by omega
        subst e
        simp
      · have hne : k ≠ q := by omega
        simp [h, hk, hne]

/-! ### Fetch and events -/

/-- The fetch answers an address past the memory, or the word at `pc` (R93). -/
theorem fetch_cases (s : State) :
    s.pc.toNat > 4095 ∧ fetch s = .error s.pc.toNat ∨
      s.pc.toNat = 4095 ∧ fetch s = .error 4096 ∨
      s.pc.toNat < 4095 ∧
        fetch s = .ok (wordOfBytes (s.mem.readByte s.pc.toNat) (s.mem.readByte (s.pc.toNat + 1))) := by
  unfold fetch
  split
  · rename_i h
    exact .inl ⟨h, rfl⟩
  · split
    · rename_i h1 h2
      have e : s.pc.toNat = 4095 := by omega
      exact .inr (.inl ⟨e, by rw [e]⟩)
    · rename_i h1 h2
      exact .inr (.inr ⟨by omega, rfl⟩)

/-- What a running cycle can answer: a fetch out of bounds, an undecodable word, or the decoded instruction (R226). -/
theorem runCycle_cases (s : State) :
    (∃ a, fetch s = .error a ∧ runCycle s = .next (s.raise .outOfBounds none (some a))) ∨
      (∃ o, fetch s = .ok o ∧ decodeWord o = none ∧ runCycle s = .next (s.raise .decodeError (some o) none)) ∨
      ∃ o i, fetch s = .ok o ∧ decodeWord o = some i ∧ runCycle s = exec i s := by
  unfold runCycle
  split
  · rename_i a h
    exact .inl ⟨a, h, rfl⟩
  · rename_i o h
    split
    · rename_i i hi
      exact .inr (.inr ⟨o, i, h, hi, rfl⟩)
    · rename_i hn
      exact .inr (.inl ⟨o, h, hn, rfl⟩)

end Sys2Proof.Machine
end

