-- ==== Sys2Proof/Laws/PerInstr.lean ====
section
/-! SUPPORT. Per instruction: the encoding of each is selected by a row of its own of the table, and that row builds the
instruction back from it (30_encoding.md rules R83 to R86). Whether an earlier row takes the word first is a question of
the scan (R87), not of this family. -/

namespace Sys2Proof.Laws.OwnRow

/-- Some row of the table selects the instruction's word and builds the instruction from it. -/
def Statement (i : Instr) : Prop :=
  ∃ (k : Nat) (r : Row), table[k]? = some r ∧ r.selects (encode i) = true ∧ r.build (encode i) = i

/-! ### A row of each shape selects the words with its fixed nibbles -/

theorem selects_nnn {v : Word} {b : Word → Instr} (a : BitVec 4) (nnn : Addr12) (h : (a ++ 0#12 : Word) = v) :
    Row.selects ⟨0xF000, v, b⟩ (a ++ nnn : Word) = true := by
  simp only [Row.selects, and_maskF000, h, BEq.rfl]

theorem selects_xkk {v : Word} {b : Word → Instr} (a : BitVec 4) (x : RegIdx) (kk : Byte)
    (h : (a ++ 0#4 ++ 0#8 : Word) = v) : Row.selects ⟨0xF000, v, b⟩ (a ++ x ++ kk : Word) = true := by
  simp only [Row.selects, and_maskF000_byte, h, BEq.rfl]

theorem selects_xy {v : Word} {b : Word → Instr} (a : BitVec 4) (x y : RegIdx) (d : BitVec 4)
    (h : (a ++ 0#4 ++ 0#4 ++ d : Word) = v) : Row.selects ⟨0xF00F, v, b⟩ (a ++ x ++ y ++ d : Word) = true := by
  simp only [Row.selects, and_maskF00F, h, BEq.rfl]

theorem selects_xyn {v : Word} {b : Word → Instr} (a : BitVec 4) (x y : RegIdx) (n : BitVec 4)
    (h : (a ++ 0#4 ++ 0#4 ++ 0#4 : Word) = v) : Row.selects ⟨0xF000, v, b⟩ (a ++ x ++ y ++ n : Word) = true := by
  simp only [Row.selects, and_maskF000_nibbles, h, BEq.rfl]

theorem selects_x {v : Word} {b : Word → Instr} (a : BitVec 4) (x : RegIdx) (d : BitVec 8)
    (h : (a ++ 0#4 ++ d : Word) = v) : Row.selects ⟨0xF0FF, v, b⟩ (a ++ x ++ d : Word) = true := by
  simp only [Row.selects, and_maskF0FF, h, BEq.rfl]

/-! ### Each instruction -/

theorem cls : Statement .cls :=
  ⟨0, _, rfl, rfl, rfl⟩

theorem ret : Statement .ret :=
  ⟨1, _, rfl, rfl, rfl⟩

theorem sys (nnn : Addr12) : Statement (.sys nnn) :=
  ⟨2, _, rfl, selects_nnn 0x0 nnn rfl, congrArg Instr.sys (fieldNnn_append 0x0 nnn)⟩

theorem jp (nnn : Addr12) : Statement (.jp nnn) :=
  ⟨3, _, rfl, selects_nnn 0x1 nnn rfl, congrArg Instr.jp (fieldNnn_append 0x1 nnn)⟩

theorem call (nnn : Addr12) : Statement (.call nnn) :=
  ⟨4, _, rfl, selects_nnn 0x2 nnn rfl, congrArg Instr.call (fieldNnn_append 0x2 nnn)⟩

theorem seImm (x : RegIdx) (kk : Byte) : Statement (.seImm x kk) :=
  ⟨5, _, rfl, selects_xkk 0x3 x kk rfl, congrArg₂ Instr.seImm (fieldX_byte 0x3 x kk) (fieldKk_byte 0x3 x kk)⟩

theorem sneImm (x : RegIdx) (kk : Byte) : Statement (.sneImm x kk) :=
  ⟨6, _, rfl, selects_xkk 0x4 x kk rfl, congrArg₂ Instr.sneImm (fieldX_byte 0x4 x kk) (fieldKk_byte 0x4 x kk)⟩

theorem seReg (x y : RegIdx) : Statement (.seReg x y) :=
  ⟨7, _, rfl, selects_xy 0x5 x y 0x0 rfl,
    congrArg₂ Instr.seReg (fieldX_nibbles 0x5 x y 0x0) (fieldY_nibbles 0x5 x y 0x0)⟩

theorem ldImm (x : RegIdx) (kk : Byte) : Statement (.ldImm x kk) :=
  ⟨8, _, rfl, selects_xkk 0x6 x kk rfl, congrArg₂ Instr.ldImm (fieldX_byte 0x6 x kk) (fieldKk_byte 0x6 x kk)⟩

theorem addImm (x : RegIdx) (kk : Byte) : Statement (.addImm x kk) :=
  ⟨9, _, rfl, selects_xkk 0x7 x kk rfl, congrArg₂ Instr.addImm (fieldX_byte 0x7 x kk) (fieldKk_byte 0x7 x kk)⟩

theorem ldReg (x y : RegIdx) : Statement (.ldReg x y) :=
  ⟨10, _, rfl, selects_xy 0x8 x y 0x0 rfl,
    congrArg₂ Instr.ldReg (fieldX_nibbles 0x8 x y 0x0) (fieldY_nibbles 0x8 x y 0x0)⟩

theorem orReg (x y : RegIdx) : Statement (.orReg x y) :=
  ⟨11, _, rfl, selects_xy 0x8 x y 0x1 rfl,
    congrArg₂ Instr.orReg (fieldX_nibbles 0x8 x y 0x1) (fieldY_nibbles 0x8 x y 0x1)⟩

theorem andReg (x y : RegIdx) : Statement (.andReg x y) :=
  ⟨12, _, rfl, selects_xy 0x8 x y 0x2 rfl,
    congrArg₂ Instr.andReg (fieldX_nibbles 0x8 x y 0x2) (fieldY_nibbles 0x8 x y 0x2)⟩

theorem xorReg (x y : RegIdx) : Statement (.xorReg x y) :=
  ⟨13, _, rfl, selects_xy 0x8 x y 0x3 rfl,
    congrArg₂ Instr.xorReg (fieldX_nibbles 0x8 x y 0x3) (fieldY_nibbles 0x8 x y 0x3)⟩

theorem addReg (x y : RegIdx) : Statement (.addReg x y) :=
  ⟨14, _, rfl, selects_xy 0x8 x y 0x4 rfl,
    congrArg₂ Instr.addReg (fieldX_nibbles 0x8 x y 0x4) (fieldY_nibbles 0x8 x y 0x4)⟩

theorem subReg (x y : RegIdx) : Statement (.subReg x y) :=
  ⟨15, _, rfl, selects_xy 0x8 x y 0x5 rfl,
    congrArg₂ Instr.subReg (fieldX_nibbles 0x8 x y 0x5) (fieldY_nibbles 0x8 x y 0x5)⟩

theorem shr (x y : RegIdx) : Statement (.shr x y) :=
  ⟨16, _, rfl, selects_xy 0x8 x y 0x6 rfl,
    congrArg₂ Instr.shr (fieldX_nibbles 0x8 x y 0x6) (fieldY_nibbles 0x8 x y 0x6)⟩

theorem subnReg (x y : RegIdx) : Statement (.subnReg x y) :=
  ⟨17, _, rfl, selects_xy 0x8 x y 0x7 rfl,
    congrArg₂ Instr.subnReg (fieldX_nibbles 0x8 x y 0x7) (fieldY_nibbles 0x8 x y 0x7)⟩

theorem shl (x y : RegIdx) : Statement (.shl x y) :=
  ⟨18, _, rfl, selects_xy 0x8 x y 0xE rfl,
    congrArg₂ Instr.shl (fieldX_nibbles 0x8 x y 0xE) (fieldY_nibbles 0x8 x y 0xE)⟩

theorem sneReg (x y : RegIdx) : Statement (.sneReg x y) :=
  ⟨19, _, rfl, selects_xy 0x9 x y 0x0 rfl,
    congrArg₂ Instr.sneReg (fieldX_nibbles 0x9 x y 0x0) (fieldY_nibbles 0x9 x y 0x0)⟩

theorem ldI (nnn : Addr12) : Statement (.ldI nnn) :=
  ⟨20, _, rfl, selects_nnn 0xA nnn rfl, congrArg Instr.ldI (fieldNnn_append 0xA nnn)⟩

theorem jpV0 (nnn : Addr12) : Statement (.jpV0 nnn) :=
  ⟨21, _, rfl, selects_nnn 0xB nnn rfl, congrArg Instr.jpV0 (fieldNnn_append 0xB nnn)⟩

theorem rnd (x : RegIdx) (kk : Byte) : Statement (.rnd x kk) :=
  ⟨22, _, rfl, selects_xkk 0xC x kk rfl, congrArg₂ Instr.rnd (fieldX_byte 0xC x kk) (fieldKk_byte 0xC x kk)⟩

theorem drw (x y : RegIdx) (n : Nibble) : Statement (.drw x y n) :=
  ⟨23, _, rfl, selects_xyn 0xD x y n rfl,
    congr (congrArg₂ Instr.drw (fieldX_nibbles 0xD x y n) (fieldY_nibbles 0xD x y n)) (fieldN_nibbles 0xD x y n)⟩

theorem skp (x : RegIdx) : Statement (.skp x) :=
  ⟨24, _, rfl, selects_x 0xE x 0x9E rfl, congrArg Instr.skp (fieldX_byte 0xE x 0x9E)⟩

theorem sknp (x : RegIdx) : Statement (.sknp x) :=
  ⟨25, _, rfl, selects_x 0xE x 0xA1 rfl, congrArg Instr.sknp (fieldX_byte 0xE x 0xA1)⟩

theorem ldVxDt (x : RegIdx) : Statement (.ldVxDt x) :=
  ⟨26, _, rfl, selects_x 0xF x 0x07 rfl, congrArg Instr.ldVxDt (fieldX_byte 0xF x 0x07)⟩

theorem ldDtVx (x : RegIdx) : Statement (.ldDtVx x) :=
  ⟨27, _, rfl, selects_x 0xF x 0x15 rfl, congrArg Instr.ldDtVx (fieldX_byte 0xF x 0x15)⟩

theorem ldStVx (x : RegIdx) : Statement (.ldStVx x) :=
  ⟨28, _, rfl, selects_x 0xF x 0x18 rfl, congrArg Instr.ldStVx (fieldX_byte 0xF x 0x18)⟩

theorem ldVxK (x : RegIdx) : Statement (.ldVxK x) :=
  ⟨29, _, rfl, selects_x 0xF x 0x0A rfl, congrArg Instr.ldVxK (fieldX_byte 0xF x 0x0A)⟩

theorem addI (x : RegIdx) : Statement (.addI x) :=
  ⟨30, _, rfl, selects_x 0xF x 0x1E rfl, congrArg Instr.addI (fieldX_byte 0xF x 0x1E)⟩

theorem ldF (x : RegIdx) : Statement (.ldF x) :=
  ⟨31, _, rfl, selects_x 0xF x 0x29 rfl, congrArg Instr.ldF (fieldX_byte 0xF x 0x29)⟩

theorem ldB (x : RegIdx) : Statement (.ldB x) :=
  ⟨32, _, rfl, selects_x 0xF x 0x33 rfl, congrArg Instr.ldB (fieldX_byte 0xF x 0x33)⟩

theorem storeRegs (x : RegIdx) : Statement (.storeRegs x) :=
  ⟨33, _, rfl, selects_x 0xF x 0x55 rfl, congrArg Instr.storeRegs (fieldX_byte 0xF x 0x55)⟩

theorem loadRegs (x : RegIdx) : Statement (.loadRegs x) :=
  ⟨34, _, rfl, selects_x 0xF x 0x65 rfl, congrArg Instr.loadRegs (fieldX_byte 0xF x 0x65)⟩

end Sys2Proof.Laws.OwnRow
end

