-- ==== Sys2Proof/Laws/Surface.lean ====
section
/-! SUPPORT. What one pixel write, one destination and one sprite bit do (43_display.md rules R182 to R184). -/

namespace Sys2Proof.Machine

theorem getLsbD_setBit (row : BitVec 64) (c d : Nat) (b : Bool) (hc : c < 64) :
    (setBit row c b).getLsbD d = if d = c then b else row.getLsbD d := by
  by_cases h : d = c
  · subst h
    cases b <;> simp [setBit, hc]
  · cases b
    · by_cases hd : d < 64
      · simp [setBit, h, hd]
      · simp [setBit, h, BitVec.getLsbD_of_ge _ _ (Nat.le_of_not_lt hd)]
    · simp [setBit, h, Ne.symm h]

/-- Reading a pixel after writing one. -/
theorem pixel_setPixel (fb : Framebuffer) (l k : Nat) (b : Bool) (hl : l < 2048) :
    pixel (setPixel fb l b) k = if k = l then b else pixel fb k := by
  have hrow : l / 64 < 32 := by omega
  have hcol : l % 64 < 64 := Nat.mod_lt _ (by decide)
  unfold pixel setPixel
  by_cases hr : k / 64 = l / 64
  · rw [hr]
    simp only [Vector.getElem?_setIfInBounds_self, hrow, if_true, Option.getD_some]
    rw [getLsbD_setBit _ _ _ _ hcol]
    by_cases hk : k = l
    · simp [hk]
    · have : k % 64 ≠ l % 64 := by omega
      simp [hk, this]
  · have hk : k ≠ l := fun e => hr (by rw [e])
    rw [Vector.getElem?_setIfInBounds_ne (Ne.symm hr)]
    simp [hk]

/-- On a cleared surface no pixel is lit (R181). -/
theorem pixel_clearedSurface (l : Nat) : pixel clearedSurface l = false := by
  unfold pixel clearedSurface
  by_cases h : l / 64 < 32 <;> simp [h]

/-- A destination is always a pixel of the buffer (R184). -/
theorem dest_lt {edge : EdgePolicy} {c r d : Nat} (h : dest edge c r = some d) : d < 2048 := by
  unfold dest at h
  simp only [Config.displayWidth, Config.displayHeight] at h
  cases edge with
  | linear =>
    simp only at h
    split at h
    · simp only [Option.some.injEq] at h
      omega
    · simp at h
  | clip =>
    simp only at h
    split at h
    · simp only [Option.some.injEq] at h
      omega
    · simp at h
  | wrap =>
    simp only [Option.some.injEq] at h
    omega

/-- Two bits of one sprite never reach the same pixel (R183). -/
theorem dest_injective {edge : EdgePolicy} {ox oy b b' r r' d : Nat} (hb : b < 8) (hb' : b' < 8) (hr : r < 16)
    (hr' : r' < 16) (h : dest edge (ox + b) (oy + r) = some d)
    (h' : dest edge (ox + b') (oy + r') = some d) : b = b' ∧ r = r' := by
  unfold dest at h h'
  simp only [Config.displayWidth, Config.displayHeight] at h h'
  cases edge with
  | linear =>
    simp only at h h'
    split at h <;> split at h' <;> simp only [Option.some.injEq, reduceCtorEq] at h h'
    omega
  | clip =>
    simp only at h h'
    split at h <;> split at h' <;> simp only [Option.some.injEq, reduceCtorEq] at h h'
    omega
  | wrap =>
    simp only [Option.some.injEq] at h h'
    omega

/-- One sprite bit: the pixel of its destination is XORed with it, every other pixel is as before, and it collides when
a lit pixel goes out (R182). -/
theorem pixel_plotBit (edge : EdgePolicy) (c r : Nat) (bit : Bool) (acc : Framebuffer × Bool) (l : Nat) :
    pixel (plotBit edge c r bit acc).1 l = (pixel acc.1 l ^^ (decide (dest edge c r = some l) && bit)) := by
  unfold plotBit
  split
  · rename_i h
    simp [h]
  · rename_i d h
    rw [pixel_setPixel _ _ _ _ (dest_lt h)]
    by_cases e : l = d
    · simp [e, h]
    · simp [h, e, Ne.symm e]

/-- The collision that one sprite bit reports (R183). -/
theorem collided_plotBit (edge : EdgePolicy) (c r : Nat) (bit : Bool) (acc : Framebuffer × Bool) :
    (plotBit edge c r bit acc).2 = true ↔
      acc.2 = true ∨ bit = true ∧ ∃ d, dest edge c r = some d ∧ pixel acc.1 d = true := by
  unfold plotBit
  split
  · rename_i h
    simp [h]
  · rename_i d h
    simp [h, and_comm]

end Sys2Proof.Machine
end

