-- ==== Sys2Proof/Tests/Slice0.lean ====
section
/-! SUPPORT. Small tests, each on one step or one event, with expected results from spec/95_test_vectors.md and the
examples of the rules, and the witnesses that the statements' hypotheses can be met. -/

namespace Sys2Proof.Tests

open Sys2Proof.Machine

/-! ### Helpers -/

/-- The state a result holds; no result of these tests is a fault or a refusal. -/
def after : Result → State
  | .next t => t
  | .fault f => nomatch f
  | .refused _ => State.reset

/-- The reset state with the inputs of the tests: the next event a cycle, the drawn byte 0xA7, key 5 alone down. -/
def base : State := { State.reset with inputs := { event := .cycle, rand := 0xA7, keyDown := 0x0020 } }

/-- The base state with some registers set. -/
def withRegs (l : List (RegIdx × Byte)) : State := l.foldl (fun s p => s.setV p.1 p.2) base

/-- The base state with I and the memory from I upward set. -/
def withMem (i : Word) (l : List Byte) : State := { base with i := i, mem := storeBytes [] i.toNat l }

/-- The base state halted by an error record. -/
def halted : State := base.raise .decodeError (some 0xFFFF) none

/-- The base state waiting for a key for V2. -/
def waiting : State := { base with mode := .awaitingKey 2, dt := 3 }

/-- The state with another next event. -/
def onEvent (e : Event) (s : State) : State := { s with inputs := { s.inputs with event := e } }

/-! ### Well-formedness (R87) -/

theorem test_wf_refuses_sys_0E0 : (Instr.sys 0x0E0).wf = false := by decide
theorem test_wf_refuses_sys_0EE : (Instr.sys 0x0EE).wf = false := by decide
theorem test_wf_accepts_sys_0E1 : (Instr.sys 0x0E1).wf = true := by decide

/-! ### Decoding: one word of every row, written out from its pattern (R86) -/

theorem test_decode_cls : decodeWord 0x00E0 = some (.cls) ∧ encode (.cls) = 0x00E0 := by decide
theorem test_decode_ret : decodeWord 0x00EE = some (.ret) ∧ encode (.ret) = 0x00EE := by decide
theorem test_decode_sys : decodeWord 0x00E1 = some (.sys 0x0E1) ∧ encode (.sys 0x0E1) = 0x00E1 := by decide
theorem test_decode_jp : decodeWord 0x1ABC = some (.jp 0xABC) ∧ encode (.jp 0xABC) = 0x1ABC := by decide
theorem test_decode_call : decodeWord 0x2FFF = some (.call 0xFFF) ∧ encode (.call 0xFFF) = 0x2FFF := by decide
theorem test_decode_seImm : decodeWord 0x3A42 = some (.seImm 0xA 0x42) ∧ encode (.seImm 0xA 0x42) = 0x3A42 := by decide
theorem test_decode_sneImm : decodeWord 0x4B24 = some (.sneImm 0xB 0x24) ∧ encode (.sneImm 0xB 0x24) = 0x4B24 := by decide
theorem test_decode_seReg : decodeWord 0x5120 = some (.seReg 1 2) ∧ encode (.seReg 1 2) = 0x5120 := by decide
theorem test_decode_ldImm : decodeWord 0x6A2B = some (.ldImm 0xA 0x2B) ∧ encode (.ldImm 0xA 0x2B) = 0x6A2B := by decide
theorem test_decode_addImm : decodeWord 0x7102 = some (.addImm 1 2) ∧ encode (.addImm 1 2) = 0x7102 := by decide
theorem test_decode_ldReg : decodeWord 0x8120 = some (.ldReg 1 2) ∧ encode (.ldReg 1 2) = 0x8120 := by decide
theorem test_decode_orReg : decodeWord 0x8341 = some (.orReg 3 4) ∧ encode (.orReg 3 4) = 0x8341 := by decide
theorem test_decode_andReg : decodeWord 0x8562 = some (.andReg 5 6) ∧ encode (.andReg 5 6) = 0x8562 := by decide
theorem test_decode_xorReg : decodeWord 0x8783 = some (.xorReg 7 8) ∧ encode (.xorReg 7 8) = 0x8783 := by decide
theorem test_decode_addReg : decodeWord 0x89A4 = some (.addReg 9 0xA) ∧ encode (.addReg 9 0xA) = 0x89A4 := by decide
theorem test_decode_subReg : decodeWord 0x8BC5 = some (.subReg 0xB 0xC) ∧ encode (.subReg 0xB 0xC) = 0x8BC5 := by decide
theorem test_decode_shr : decodeWord 0x84F6 = some (.shr 4 0xF) ∧ encode (.shr 4 0xF) = 0x84F6 := by decide
theorem test_decode_subnReg : decodeWord 0x8DE7 = some (.subnReg 0xD 0xE) ∧ encode (.subnReg 0xD 0xE) = 0x8DE7 := by decide
theorem test_decode_shl : decodeWord 0x8F0E = some (.shl 0xF 0) ∧ encode (.shl 0xF 0) = 0x8F0E := by decide
theorem test_decode_sneReg : decodeWord 0x9AB0 = some (.sneReg 0xA 0xB) ∧ encode (.sneReg 0xA 0xB) = 0x9AB0 := by decide
theorem test_decode_ldI : decodeWord 0xA2F0 = some (.ldI 0x2F0) ∧ encode (.ldI 0x2F0) = 0xA2F0 := by decide
theorem test_decode_jpV0 : decodeWord 0xB300 = some (.jpV0 0x300) ∧ encode (.jpV0 0x300) = 0xB300 := by decide
theorem test_decode_rnd : decodeWord 0xC30F = some (.rnd 3 0x0F) ∧ encode (.rnd 3 0x0F) = 0xC30F := by decide
theorem test_decode_drw : decodeWord 0xD125 = some (.drw 1 2 5) ∧ encode (.drw 1 2 5) = 0xD125 := by decide
theorem test_decode_skp : decodeWord 0xE19E = some (.skp 1) ∧ encode (.skp 1) = 0xE19E := by decide
theorem test_decode_sknp : decodeWord 0xE2A1 = some (.sknp 2) ∧ encode (.sknp 2) = 0xE2A1 := by decide
theorem test_decode_ldVxDt : decodeWord 0xF307 = some (.ldVxDt 3) ∧ encode (.ldVxDt 3) = 0xF307 := by decide
theorem test_decode_ldDtVx : decodeWord 0xF415 = some (.ldDtVx 4) ∧ encode (.ldDtVx 4) = 0xF415 := by decide
theorem test_decode_ldStVx : decodeWord 0xF518 = some (.ldStVx 5) ∧ encode (.ldStVx 5) = 0xF518 := by decide
theorem test_decode_ldVxK : decodeWord 0xF60A = some (.ldVxK 6) ∧ encode (.ldVxK 6) = 0xF60A := by decide
theorem test_decode_addI : decodeWord 0xF71E = some (.addI 7) ∧ encode (.addI 7) = 0xF71E := by decide
theorem test_decode_ldF : decodeWord 0xF829 = some (.ldF 8) ∧ encode (.ldF 8) = 0xF829 := by decide
theorem test_decode_ldB : decodeWord 0xF933 = some (.ldB 9) ∧ encode (.ldB 9) = 0xF933 := by decide
theorem test_decode_storeRegs : decodeWord 0xFA55 = some (.storeRegs 0xA) ∧ encode (.storeRegs 0xA) = 0xFA55 := by decide
theorem test_decode_loadRegs : decodeWord 0xFB65 = some (.loadRegs 0xB) ∧ encode (.loadRegs 0xB) = 0xFB65 := by decide

/-- V-DEC-6 to V-DEC-13: one illegal word of every family that has some (R89). -/
theorem test_decode_refuses_illegal_words :
    [0x5121, 0x8008, 0x800F, 0x9AB1, 0xE000, 0xE19F, 0xF000, 0xFFFF].all (fun w => decodeWord w == none) = true := by decide

/-- The bytes of a word lie high byte first (R62). -/
theorem test_decode_bytes_big_endian : decodeBytes [0x81, 0x24, 0x00] = .ok (.addReg 1 2, [0x00]) := by rfl
theorem test_decode_bytes_truncated : decodeBytes [0x81] = .error .truncated := by rfl
theorem test_decode_bytes_no_match : decodeBytes [0x51, 0x21] = .error (.noMatch 0x5121) := by rfl
theorem test_decode_table_word : decodeTableWord 16 0xD015 = some (.drw 0 1 5) := by decide

/-! ### The instructions, on the spec's examples and vectors -/

/-- V-CF-9, W4. -/
theorem test_ret_pops :
    (after (exec .ret { base with sp := 1, stack := base.stack.set 0 0x204 })).pc = 0x206 ∧
    (after (exec .ret base)).mode = .halted { kind := .stackUnderflow, pc := 0x200, opcode := some 0x00EE, addr := none } := by decide

/-- V-DEC-1. -/
theorem test_sys_advances :
    (after (exec (.sys 0) (base))) = { base with pc := 0x202 } := by decide

/-- V-CF-2, V-CF-4. -/
theorem test_jp_wraps_through_zero :
    (after (exec (.jp 0) (base))).pc = 0x000 ∧ (after (exec (.jp 0xFFF) (base))).pc = 0xFFF := by decide

/-- V-CF-7. -/
theorem test_call_last_entry :
    (after (exec (.call 0x300) { base with pc := 0x250, sp := 15 })).stack[15] = 0x250 ∧
    (after (exec (.call 0x300) { base with pc := 0x250, sp := 15 })).sp = 16 ∧
    (after (exec (.call 0x300) { base with pc := 0x250, sp := 15 })).pc = 0x300 := by decide

/-- V-CF-8. -/
theorem test_call_overflow :
    after (exec (.call 0x300) { base with pc := 0x250, sp := 16 }) =
      { base with pc := 0x250, sp := 16, mode := .halted { kind := .stackOverflow, pc := 0x250, opcode := some 0x2300, addr := none } } := by decide

/-- V-CF-11, V-CF-12. -/
theorem test_seImm :
    (after (exec (.seImm 3 0x42) (withRegs [(3, 0x42)]))).pc = 0x204 ∧ (after (exec (.seImm 3 0x42) (withRegs [(3, 0x41)]))).pc = 0x202 := by decide

/-- V-CF-13, V-CF-14. -/
theorem test_sneImm :
    (after (exec (.sneImm 3 0x42) (withRegs [(3, 0x41)]))).pc = 0x204 ∧ (after (exec (.sneImm 3 0x42) (withRegs [(3, 0x42)]))).pc = 0x202 := by decide

/-- V-CF-15, V-CF-16. -/
theorem test_seReg :
    (after (exec (.seReg 1 2) (withRegs [(1, 7), (2, 7)]))).pc = 0x204 ∧ (after (exec (.seReg 1 2) (withRegs [(1, 7), (2, 8)]))).pc = 0x202 := by decide

/-- V-CF-18, V-CF-19. -/
theorem test_sneReg :
    (after (exec (.sneReg 1 2) (withRegs [(1, 7), (2, 8)]))).pc = 0x204 ∧ (after (exec (.sneReg 5 5) (withRegs [(5, 9)]))).pc = 0x202 := by decide

/-- V-CF-21. -/
theorem test_jpV0_past_memory :
    (after (exec (.jpV0 0xFFF) (withRegs [(0, 0xFF)]))).pc = 0x10FE := by decide

/-- V-ALU-1. -/
theorem test_ldImm :
    (after (exec (.ldImm 0xA 0x2B) (base))).getV 0xA = 0x2B := by decide

/-- V-ALU-3, V-ALU-4. -/
theorem test_addImm_wraps_without_flag :
    (after (exec (.addImm 1 2) (withRegs [(1, 0xFF), (0xF, 0x77)]))).getV 1 = 0x01 ∧
    (after (exec (.addImm 1 2) (withRegs [(1, 0xFF), (0xF, 0x77)]))).getV 0xF = 0x77 ∧
    (after (exec (.addImm 0xF 1) (withRegs [(0xF, 0xFF)]))).getV 0xF = 0x00 := by decide

/-- V-ALU-5. -/
theorem test_ldReg :
    (after (exec (.ldReg 1 2) (withRegs [(2, 0x99)]))).getV 1 = 0x99 := by decide

/-- V-ALU-6. -/
theorem test_orReg_spares_vf :
    (after (exec (.orReg 1 2) (withRegs [(1, 0x0F), (2, 0xF0), (0xF, 0x55)]))).getV 1 = 0xFF ∧
    (after (exec (.orReg 1 2) (withRegs [(1, 0x0F), (2, 0xF0), (0xF, 0x55)]))).getV 0xF = 0x55 := by decide

/-- V-ALU-7. -/
theorem test_andReg :
    (after (exec (.andReg 1 2) (withRegs [(1, 0x3C), (2, 0x0F)]))).getV 1 = 0x0C := by decide

/-- The example of R136, V-ALU-8. -/
theorem test_xorReg :
    (after (exec (.xorReg 1 2) (withRegs [(1, 0x3C), (2, 0x0F)]))).getV 1 = 0x33 ∧ (after (exec (.xorReg 1 1) (withRegs [(1, 0x3C)]))).getV 1 = 0 := by decide

/-- V-ALU-9, V-ALU-10. -/
theorem test_addReg_carry :
    (after (exec (.addReg 1 2) (withRegs [(1, 0x7F), (2, 0x80), (0xF, 9)]))).getV 0xF = 0 ∧
    (after (exec (.addReg 1 2) (withRegs [(1, 0xFF), (2, 1)]))).getV 1 = 0 ∧ (after (exec (.addReg 1 2) (withRegs [(1, 0xFF), (2, 1)]))).getV 0xF = 1 := by decide

/-- V-ALU-12, V-ALU-13. -/
theorem test_addReg_flag_last :
    (after (exec (.addReg 0xF 1) (withRegs [(0xF, 0xFF), (1, 1)]))).getV 0xF = 1 ∧
    (after (exec (.addReg 1 0xF) (withRegs [(1, 0x10), (0xF, 5)]))).getV 1 = 0x15 := by decide

/-- V-ALU-14, V-ALU-15. -/
theorem test_subReg_borrow :
    (after (exec (.subReg 1 2) (withRegs [(1, 5), (2, 0x0A), (0xF, 7)]))).getV 1 = 0xFB ∧
    (after (exec (.subReg 1 2) (withRegs [(1, 5), (2, 0x0A), (0xF, 7)]))).getV 0xF = 0 ∧ (after (exec (.subReg 1 2) (withRegs [(1, 0x33), (2, 0x33)]))).getV 0xF = 1 := by decide

/-- V-ALU-16. -/
theorem test_subReg_flag_last :
    (after (exec (.subReg 0xF 1) (withRegs [(0xF, 0x10), (1, 1)]))).getV 0xF = 1 := by decide

/-- V-ALU-19, V-ALU-20, V-ALU-25. -/
theorem test_shr_flag_last :
    (after (exec (.shr 0xF 0) (withRegs [(0xF, 3)]))).getV 0xF = 1 ∧ (after (exec (.shr 0xF 0) (withRegs [(0xF, 2)]))).getV 0xF = 0 ∧
    (after (exec (.shr 4 5) (withRegs [(4, 8), (5, 0xFF)]))).getV 4 = 4 := by decide

/-- V-ALU-17, V-ALU-18. -/
theorem test_subnReg :
    (after (exec (.subnReg 1 2) (withRegs [(1, 0x0A), (2, 5)]))).getV 1 = 0xFB ∧ (after (exec (.subnReg 1 2) (withRegs [(1, 5), (2, 0x0A)]))).getV 1 = 5 ∧
    (after (exec (.subnReg 1 2) (withRegs [(1, 5), (2, 0x0A)]))).getV 0xF = 1 := by decide

/-- V-ALU-22, V-ALU-23. -/
theorem test_shl :
    (after (exec (.shl 4 0) (withRegs [(4, 0x81)]))).getV 4 = 2 ∧ (after (exec (.shl 4 0) (withRegs [(4, 0x81)]))).getV 0xF = 1 ∧
    (after (exec (.shl 0xF 0xF) (withRegs [(0xF, 0x81)]))).getV 0xF = 1 := by decide

/-- V-ALU-28, V-ALU-29. -/
theorem test_rnd_masks :
    (after (exec (.rnd 3 0x0F) (base))).getV 3 = 0x07 ∧ (after (exec (.rnd 3 0) (withRegs [(3, 9)]))).getV 3 = 0 := by decide

/-- V-MEM-1. -/
theorem test_ldI :
    (after (exec (.ldI 0x2F0) (base))).i = 0x2F0 := by decide

/-- V-MEM-2, V-MEM-3. -/
theorem test_addI_wraps_without_flag :
    (after (exec (.addI 2) ({ withRegs [(2, 1)] with i := 0x0FFF }))).i = 0x1000 ∧ (after (exec (.addI 2) ({ withRegs [(2, 1)] with i := 0xFFFF }))).i = 0 ∧
    (after (exec (.addI 2) ({ withRegs [(2, 1)] with i := 0xFFFF }))).getV 0xF = 0 := by decide

/-- W11, V-MEM-5, V-MEM-6. -/
theorem test_ldF_unmasked :
    (after (exec (.ldF 0xA) (withRegs [(0xA, 0x0A)]))).i = 0x32 ∧ (after (exec (.ldF 7) (withRegs [(7, 0x10)]))).i = 0x50 ∧
    (after (exec (.ldF 7) (withRegs [(7, 0xFF)]))).i = 0x4FB := by decide

/-- W7, V-MEM-9. -/
theorem test_ldB_digits :
    readBytes (after (exec (.ldB 5) ({ withRegs [(5, 0xEA)] with i := 0x300 }))).mem 0x300 3 = [2, 3, 4] ∧
    readBytes (after (exec (.ldB 5) ({ withRegs [(5, 7)] with i := 0xFFD }))).mem 0xFFD 3 = [0, 0, 7] := by decide

/-- V-MEM-10, V-MEM-11. -/
theorem test_ldB_out_of_bounds :
    (after (exec (.ldB 5) ({ withRegs [(5, 7)] with i := 0xFFE }))) =
      { withRegs [(5, 7)] with
        i := 0xFFE
        mode := .halted { kind := .outOfBounds, pc := 0x200, opcode := some 0xF533, addr := some 0x1000 } } ∧
    (after (exec (.ldB 5) ({ base with i := 0x2000 }))).mode =
      .halted { kind := .outOfBounds, pc := 0x200, opcode := some 0xF533, addr := some 0x2000 } := by decide

/-- The example of R165, V-MEM-20. -/
theorem test_storeRegs :
    readBytes (after (exec (.storeRegs 2) ({ withRegs [(0, 1), (1, 2), (2, 3), (3, 4)] with i := 0x400 }))).mem 0x400 4 = [1, 2, 3, 0] ∧
    (after (exec (.storeRegs 2) ({ withRegs [(0, 1), (1, 2), (2, 3)] with i := 0x400 }))).i = 0x400 ∧
    (after (exec (.storeRegs 0) (withRegs [(0, 0x12)]))).mem.readByte 0 = 0x12 := by decide

/-- V-MEM-15, V-MEM-14. -/
theorem test_storeRegs_last_byte :
    (after (exec (.storeRegs 0xF) ({ withRegs [(0xF, 9)] with i := 0xFF0 }))).mem = [(0xFFF, 9)] ∧
    (after (exec (.storeRegs 0xF) ({ withRegs [(0xF, 9)] with i := 0xFF8 }))).mem = [] := by decide

/-- V-MEM-16, V-MEM-17. -/
theorem test_loadRegs :
    (after (exec (.loadRegs 1) (withMem 0x400 [0xAA, 0xBB, 0xCC]))).v.toList.take 3 = [0xAA, 0xBB, 0] ∧
    (after (exec (.loadRegs 0xF) { withMem 0x40F [0x5C] with i := 0x400 })).getV 0xF = 0x5C := by decide

/-- V-MEM-18, V-MEM-19. -/
theorem test_loadRegs_out_of_bounds :
    (after (exec (.loadRegs 1) { base with i := 0xFFF })).mode =
      .halted { kind := .outOfBounds, pc := 0x200, opcode := some 0xF165, addr := some 0x1000 } ∧
    (after (exec (.loadRegs 0) base)).getV 0 = 0xF0 := by decide

/-- V-DSP-1. -/
theorem test_cls :
    (after (exec .cls { withRegs [(0xF, 0x33)] with fb := base.fb.set 3 7 })).fb = base.fb ∧
    (after (exec .cls (withRegs [(0xF, 0x33)]))).getV 0xF = 0x33 ∧ (after (exec .cls base)).presents = 1 := by decide

/-- V-DSP-2: glyph 0 at the top left, column 0 being bit 0 of a row. -/
theorem test_drw_glyph :
    (after (exec (.drw 0 1 5) base)).fb.toList.take 6 = [0xF, 0x9, 0x9, 0x9, 0xF, 0] ∧
    (after (exec (.drw 0 1 5) base)).getV 0xF = 0 ∧ (after (exec (.drw 0 1 5) base)).presents = 1 := by decide +kernel

/-- V-DSP-3. -/
theorem test_drw_twice_erases :
    (after (exec (.drw 0 1 5) (after (exec (.drw 0 1 5) base)))).fb = base.fb ∧
    (after (exec (.drw 0 1 5) (after (exec (.drw 0 1 5) base)))).getV 0xF = 1 := by decide +kernel

/-- V-DSP-5, V-DSP-6, V-DSP-7: rows 0 and 1 under each policy. -/
theorem test_drw_edge_policies :
    [EdgePolicy.linear, .clip, .wrap].map (fun e =>
      (after (exec (.drw 0 1 1) { (withMem 0x300 [0xFF]).setV 0 60 with edge := e })).fb.toList.take 2) =
      [[0xF000000000000000, 0xF], [0xF000000000000000, 0], [0xF00000000000000F, 0]] := by decide

/-- V-DSP-8, V-DSP-9, V-DSP-10: what a sprite past the last row lights. -/
theorem test_drw_bottom_edge :
    (after (exec (.drw 0 1 5) ((withMem 0x300 [0x80, 0x80, 0x80, 0x80, 0x80]).setV 1 30))).fb =
      (base.fb.set 30 1).set 31 1 ∧
    (after (exec (.drw 0 1 5) { (withMem 0x300 [0x80, 0x80, 0x80, 0x80, 0x80]).setV 1 30 with edge := .wrap })).fb =
      ((((base.fb.set 30 1).set 31 1).set 0 1).set 1 1).set 2 1 ∧
    (after (exec (.drw 0 1 1) (((withMem 0x300 [0xFF]).setV 0 60).setV 1 31))).fb = base.fb.set 31 0xF000000000000000 := by decide +kernel

/-- V-DSP-14: also with I out of bounds. -/
theorem test_drw_no_rows :
    (after (exec (.drw 0 1 0) ({ withRegs [(0xF, 1)] with i := 0x2000 }))).getV 0xF = 0 ∧
    (after (exec (.drw 0 1 0) ({ withRegs [(0xF, 1)] with i := 0x2000 }))).fb = base.fb := by decide

/-- V-DSP-15. -/
theorem test_drw_out_of_bounds :
    after (exec (.drw 0 1 3) { base with i := 0xFFE }) =
      { base with
        i := 0xFFE
        mode := .halted { kind := .outOfBounds, pc := 0x200, opcode := some 0xD013, addr := some 0x1000 } } := by decide

/-- V-KT-1, V-KT-2, V-KT-3. -/
theorem test_skp :
    (after (exec (.skp 1) (withRegs [(1, 5)]))).pc = 0x204 ∧ (after (exec (.skp 1) (withRegs [(1, 6)]))).pc = 0x202 ∧ (after (exec (.skp 1) (withRegs [(1, 0x15)]))).pc = 0x202 := by decide

/-- V-KT-4, V-KT-5, V-KT-6. -/
theorem test_sknp :
    (after (exec (.sknp 1) (withRegs [(1, 6)]))).pc = 0x204 ∧ (after (exec (.sknp 1) (withRegs [(1, 5)]))).pc = 0x202 ∧ (after (exec (.sknp 1) (withRegs [(1, 0x15)]))).pc = 0x204 := by decide

/-- V-KT-7. -/
theorem test_ldVxDt :
    (after (exec (.ldVxDt 3) { base with dt := 0x1E })).getV 3 = 0x1E := by decide

/-- V-KT-8. -/
theorem test_ldDtVx :
    (after (exec (.ldDtVx 3) (withRegs [(3, 0x3C)]))).dt = 0x3C := by decide

/-- V-KT-9. -/
theorem test_ldStVx :
    (after (exec (.ldStVx 3) (withRegs [(3, 5)]))).st = 5 := by decide

/-- V-KT-10. -/
theorem test_ldVxK_waits :
    (after (exec (.ldVxK 2) (withRegs [(2, 9)]))) = { withRegs [(2, 9)] with mode := .awaitingKey 2, pc := 0x202 } := by decide

/-! ### Events -/

/-- V-FET-1, V-FET-2, V-FET-3. -/
theorem test_fetch_top_of_memory :
    (after (cycle { withMem 0xFFE [0x60, 0x01] with pc := 0xFFE })).getV 0 = 1 ∧
    (after (cycle { base with pc := 0x1000 })).mode =
      .halted { kind := .outOfBounds, pc := 0x1000, opcode := none, addr := some 0x1000 } ∧
    (after (cycle { base with pc := 0xFFF })).mode =
      .halted { kind := .outOfBounds, pc := 0xFFF, opcode := none, addr := some 0x1000 } := by decide

/-- V-FET-4. -/
theorem test_fetch_odd_pc :
    (after (cycle { withMem 0x201 [0x6A, 0x07] with pc := 0x201 })).getV 0xA = 7 ∧
    (after (cycle { withMem 0x201 [0x6A, 0x07] with pc := 0x201 })).pc = 0x203 := by decide

/-- V-DEC-13. -/
theorem test_decode_error_halts :
    after (cycle (withMem 0x200 [0xFF, 0xFF])) =
      { withMem 0x200 [0xFF, 0xFF] with
        mode := .halted { kind := .decodeError, pc := 0x200, opcode := some 0xFFFF, addr := none } } := by decide

/-- V-KT-12, V-FET-5: cycle, tick, cycle. -/
theorem test_waiting :
    (after (runEvents [.cycle, .tick, .cycle] waiting)) = { waiting with dt := 2 } := by decide

/-- V-KT-11, V-KT-13. -/
theorem test_key_press_ends_wait :
    (after (applyEvent (.keyPress 0xB) waiting)).getV 2 = 0x0B ∧ (after (applyEvent (.keyPress 0xB) waiting)).mode = .running ∧
    after (applyEvent (.keyPress 4) base) = base := by decide

/-- V-FET-6, V-TMR-4. -/
theorem test_halted_ignores_events :
    after (runEvents [.cycle, .tick, .keyPress 3] { halted with dt := 9 }) = { halted with dt := 9 } := by decide

/-- V-TMR-1, V-TMR-2. -/
theorem test_tick :
    (tick { base with dt := 1 }).dt = 0 ∧ (tick { base with dt := 0, st := 5 }).dt = 0 ∧ (tick { base with dt := 0, st := 5 }).st = 4 := by decide

/-- V-RST-1. -/
theorem test_reset_loads_image :
    (after (resetWith ⟨⟨Config.font⟩, rfl⟩ .linear [0x12, 0x00])).mem = [(0x200, 0x12)] ∧
    readBytes State.reset.mem 0 6 = [0xF0, 0x90, 0x90, 0x90, 0xF0, 0x20] := by decide +kernel

/-- V-RST-2. -/
theorem test_reset_refuses_long_image :
    resetWith ⟨⟨Config.font⟩, rfl⟩ .linear (List.replicate 3585 0) = .refused (.imageTooLong 3585) := by
  unfold resetWith
  rw [List.length_replicate]
  rfl

/-- A word placed at reset runs as the first instruction. -/
theorem test_fetch_word_runs :
    (after (step (State.reset.withFetchWord 16 0x6A2B))).getV 0xA = 0x2B ∧
    (after (step (State.reset.withFetchWord 16 0x6A2B))).pc = 0x202 := by decide

/-- A counterexample to reading R186 as "the second draw always collides" (log 18): over a lit pixel the first draw
erases it and the second lights it again. -/
theorem test_second_draw_over_lit_pixel :
    (after (exec (.drw 0 1 1) (after (exec (.drw 0 1 1) { withMem 0x300 [0x80] with fb := base.fb.set 0 1 })))).getV 0xF = 0 ∧
    (after (exec (.drw 0 1 1) { withMem 0x300 [0x80] with fb := base.fb.set 0 1 })).getV 0xF = 1 := by decide +kernel

/-! ### Witnesses: the hypotheses of the statements can be met -/

/-- A well-formed instruction, at the boundary of the one check. -/
theorem witness_DecodeInvertsEncode :
    (Instr.sys 0x0EF).wf = true := by decide

/-- A word that decodes. -/
theorem witness_EncodeInvertsDecode :
    decodeWord 0x84F6 = some (.shr 4 0xF) := by decide

/-- A word its own row is the first to match; the two overlapping words; the last word of the SYS range. -/
theorem witness_DispatchIsFirstMatch :
    (∃ r, table[3]? = some r ∧ (0x1FFF : Word) &&& r.mask = r.value ∧
      ∀ (j : Nat) (q : Row), j < 3 → table[j]? = some q → (0x1FFF : Word) &&& q.mask ≠ q.value) ∧
    (∃ q r, table[0]? = some q ∧ table[2]? = some r ∧ (0x00E0 : Word) &&& q.mask = q.value ∧ (0x00E0 : Word) &&& r.mask = r.value) ∧
    (∃ q r, table[1]? = some q ∧ table[2]? = some r ∧ (0x00EE : Word) &&& q.mask = q.value ∧ (0x00EE : Word) &&& r.mask = r.value) ∧
    (0x0FFF : Word).toNat ≤ 0x0FFF := by
  refine ⟨⟨_, rfl, by decide, ?_⟩, ⟨_, _, rfl, rfl, by decide, by decide⟩, ⟨_, _, rfl, rfl, by decide, by decide⟩, by decide⟩
  intro j q hj hq
  match j, hj, hq with
  | 0, _, hq => cases hq; decide
  | 1, _, hq => cases hq; decide
  | 2, _, hq => cases hq; decide

/-- The last address from which an instruction can be fetched. -/
theorem witness_StepRunsTheDecodedInstruction :
    let s := { withMem 0xFFE [0x60, 0x01] with pc := 0xFFE }
    s.inputs.event = .cycle ∧ s.mode = .running ∧ s.pc.toNat + 1 ≤ 4095 ∧
      decodeWord (BitVec.ofNat 16 (wordAtPc s)) = some (.ldImm 0 1) := by decide

/-- A word that matches no row. -/
theorem witness_UndecodableWordHalts :
    let s := withMem 0x200 [0xFF, 0xFF]
    s.inputs.event = .cycle ∧ s.mode = .running ∧ s.pc.toNat + 1 ≤ 4095 ∧ decodeWord (BitVec.ofNat 16 (wordAtPc s)) = none := by decide

/-- `pc` past the memory, at its last byte, and at the last word. -/
theorem witness_FetchIsBoundsChecked :
    (({ base with pc := 0x1000 } : State).pc.toNat > 4095 ∧ fetch { base with pc := 0x1000 } = .error 4096) ∧
    ({ base with pc := 0xFFF } : State).pc.toNat = 4095 ∧ ({ base with pc := 0xFFE } : State).pc.toNat + 1 ≤ 4095 ∧
    base.inputs.event = .cycle ∧ base.mode = .running := ⟨⟨by decide, rfl⟩, by decide, by decide, by decide, by decide⟩

/-- A waiting machine, at a cycle and at a tick. -/
theorem witness_WaitingCycleChangesNothing :
    waiting.mode = .awaitingKey 2 ∧ waiting.inputs.event = .cycle ∧ (onEvent .tick waiting).mode = .awaitingKey 2 ∧
    ∀ k, (onEvent .tick waiting).inputs.event ≠ .keyPress k := ⟨rfl, rfl, rfl, fun k => by simp [onEvent]⟩

/-- A halted machine. -/
theorem witness_HaltedNeverChanges :
    halted.mode = .halted { kind := .decodeError, pc := 0x200, opcode := some 0xFFFF, addr := none } := rfl

/-- A tick, running and halted. -/
theorem witness_TickDecrementsNonZeroTimers :
    (onEvent .tick base).inputs.event = .tick ∧ (∀ e, (onEvent .tick base).mode ≠ .halted e) ∧
    (onEvent .tick halted).inputs.event = .tick ∧ ∃ e, (onEvent .tick halted).mode = .halted e := ⟨rfl, fun e => by simp [onEvent, base, State.reset], rfl, _, rfl⟩

/-- A machine that is not halted. -/
theorem witness_TicksCountDownToZero :
    ∀ e, base.mode ≠ .halted e := fun e => by simp [base, State.reset]

/-- A press while waiting, running and halted. -/
theorem witness_KeyPressEndsOnlyAWait :
    ((onEvent (.keyPress 0xF) waiting).inputs.event = .keyPress 0xF ∧ (onEvent (.keyPress 0xF) waiting).mode = .awaitingKey 2) ∧
    ((onEvent (.keyPress 0) base).inputs.event = .keyPress 0 ∧ (onEvent (.keyPress 0) base).mode = .running) ∧
    ((onEvent (.keyPress 3) halted).inputs.event = .keyPress 3 ∧ ∃ e, (onEvent (.keyPress 3) halted).mode = .halted e) := ⟨⟨rfl, rfl⟩, ⟨rfl, rfl⟩, rfl, _, rfl⟩

/-- A running machine whose step halts it. -/
theorem witness_FatalErrorChangesOnlyTheMode :
    base.mode = .running ∧ ∃ t e, step { base with pc := 0xFFF } = .next t ∧ t.mode = .halted e := ⟨rfl, _, _, rfl, rfl⟩

/-- One raise of each kind, at its boundary. -/
theorem witness_OnlyTheseInstructionsRaise :
    (∃ t e, exec .ret base = .next t ∧ t.mode = .halted e ∧ e.kind = .stackUnderflow) ∧
    (∃ t e, exec (.call 0) { base with sp := 16 } = .next t ∧ t.mode = .halted e ∧ e.kind = .stackOverflow) ∧
    (∃ t e, exec (.ldB 0) { base with i := 0xFFE } = .next t ∧ t.mode = .halted e ∧ e.kind = .outOfBounds) ∧
    (∃ t e, exec (.storeRegs 1) { base with i := 0xFFF } = .next t ∧ t.mode = .halted e ∧ e.kind = .outOfBounds) ∧
    ∃ t e, exec (.drw 0 1 2) { base with i := 0xFFF } = .next t ∧ t.mode = .halted e ∧ e.kind = .outOfBounds := ⟨⟨_, _, rfl, rfl, rfl⟩, ⟨_, _, rfl, rfl, rfl⟩, ⟨_, _, rfl, rfl, rfl⟩, ⟨_, _, rfl, rfl, rfl⟩, _, _, rfl, rfl, rfl⟩

/-- A state other than reset that meets the invariant, and its step. -/
theorem witness_StepKeepsTheInvariant :
    ({ base with pc := 0x10FE } : State).Inv ∧ ∃ t, step { base with pc := 0x10FE } = .next t := ⟨⟨by decide, by decide, by decide, fun e h => by simp [base, State.reset] at h⟩, _, rfl⟩

/-- A halted state of each kind meets the invariant: fetch faults at 4095 and at the largest `pc`, and an error at the last
address that can be fetched from. -/
theorem witness_StepKeepsTheInvariant_halted :
    (ErrorRecord.wf { kind := .outOfBounds, pc := 0xFFF, opcode := none, addr := some 0x1000 }) = true ∧
    (ErrorRecord.wf { kind := .outOfBounds, pc := 0x10FE, opcode := none, addr := some 0x10FE }) = true ∧
    (ErrorRecord.wf { kind := .outOfBounds, pc := 0xFFE, opcode := some 0xD011, addr := some 0xFFFF }) = true ∧
    (ErrorRecord.wf { kind := .decodeError, pc := 0xFFE, opcode := some 0xFFFF, addr := none }) = true ∧
    (ErrorRecord.wf { kind := .stackOverflow, pc := 0xFFE, opcode := some 0x2FFF, addr := none }) = true ∧
    (ErrorRecord.wf { kind := .stackUnderflow, pc := 0xFFE, opcode := some 0x00EE, addr := none }) = true := by decide

/-- R224, R225: no record lacks the opcode at a `pc` that can be fetched from, has one at a `pc` that cannot, or names a word
that accesses no data (6xkk, Dxy0, an undecodable one) for OutOfBounds. -/
theorem test_record_wf_refuses :
    (ErrorRecord.wf { kind := .outOfBounds, pc := 0xFFE, opcode := none, addr := some 0x1000 }) = false ∧
    (ErrorRecord.wf { kind := .outOfBounds, pc := 0xFFF, opcode := some 0xF033, addr := some 0x1000 }) = false ∧
    (ErrorRecord.wf { kind := .outOfBounds, pc := 0x200, opcode := some 0x6000, addr := some 0x1000 }) = false ∧
    (ErrorRecord.wf { kind := .outOfBounds, pc := 0x200, opcode := some 0xD010, addr := some 0x1000 }) = false ∧
    (ErrorRecord.wf { kind := .outOfBounds, pc := 0x200, opcode := some 0xFFFF, addr := some 0x1000 }) = false := by decide

/-- A step under each policy. -/
theorem witness_EdgePolicyIsFixed :
    ∀ e, ∃ t, step { base with edge := e } = .next t := fun e => by cases e <;> exact ⟨_, rfl⟩

/-- An instruction that changes a register, and one that changes VF as a flag. -/
theorem witness_RegistersChangeOnlyWhereWritten :
    (∃ t, exec (.ldImm 0xF 7) base = .next t ∧ t.getV 0xF ≠ base.getV 0xF) ∧
    ∃ t, exec (.subReg 1 1) base = .next t ∧ t.getV 0xF ≠ base.getV 0xF := ⟨⟨_, rfl, by decide⟩, _, rfl, by decide⟩

/-- The last byte each store changes. -/
theorem witness_OnlyStoresChangeMemory :
    (∃ t, exec (.ldB 5) { (withRegs [(5, 7)]) with i := 0xFFD } = .next t ∧ t.mem.readByte 0xFFF ≠ base.mem.readByte 0xFFF) ∧
    ∃ t, exec (.storeRegs 5) { (withRegs [(5, 7)]) with i := 0xFFA } = .next t ∧ t.mem.readByte 0xFFF ≠ base.mem.readByte 0xFFF := ⟨⟨_, rfl, by decide⟩, _, rfl, by decide⟩

/-- A clear of a blank buffer still presents. -/
theorem witness_OnlyClsAndDrwChangeTheDisplay :
    ∃ t, exec .cls base = .next t ∧ (t.fb ≠ base.fb ∨ t.presents ≠ base.presents) := ⟨_, rfl, .inr (by decide)⟩

/-- An instruction that changes I. -/
theorem witness_OnlyIndexInstructionsChangeI :
    ∃ t, exec (.ldI 1) base = .next t ∧ t.i ≠ base.i := ⟨_, rfl, by decide⟩

/-- A call moves the pointer and writes an entry. -/
theorem witness_OnlyCallAndRetTouchTheStack :
    ∃ t, exec (.call 1) base = .next t ∧ t.sp ≠ base.sp ∧ t.stack ≠ base.stack := ⟨_, rfl, by decide, by decide⟩

/-- Instructions that change the timers. -/
theorem witness_OnlyTimerInstructionsChangeTimers :
    (∃ t, exec (.ldDtVx 1) (withRegs [(1, 9)]) = .next t ∧ t.dt ≠ (withRegs [(1, 9)]).dt) ∧
    ∃ t, exec (.ldStVx 1) (withRegs [(1, 9)]) = .next t ∧ t.st ≠ (withRegs [(1, 9)]).st := ⟨⟨_, rfl, by decide⟩, _, rfl, by decide⟩

/-- An instruction that reads no input. -/
theorem witness_OnlyRndAndKeySkipsReadInputs :
    readsInputs (.addReg 1 2) = false ∧ ∃ t, exec (.addReg 1 2) base = .next t := ⟨rfl, _, rfl⟩

/-- A stack with one entry left, and a full one. -/
theorem witness_CallPushesItsAddress :
    ({ base with sp := 15 } : State).sp.val < 16 ∧ ({ base with sp := 16 } : State).sp.val = 16 := by decide

/-- A stack of one entry, a full one, and an empty one. -/
theorem witness_ReturnPopsTheStack :
    (0 < ({ base with sp := 1 } : State).sp.val ∧ ({ base with sp := 1 } : State).sp.val - 1 < 16) ∧
    ({ base with sp := 16 } : State).sp.val - 1 < 16 ∧ base.sp.val = 0 := by decide

/-- A call, and a state with its stack. -/
theorem witness_ReturnResumesAfterTheCall :
    base.sp.val < 16 ∧ ∃ t, exec (.call 0x300) base = .next t ∧ { t with pc := 0x456 }.sp = t.sp ∧ { t with pc := 0x456 }.stack = t.stack := ⟨by decide, _, rfl, rfl, rfl⟩

/-- The clause x ≠ F of the flagged operations, and its other side. -/
theorem witness_FlagClausesForOtherRegisters :
    (0xE : RegIdx) ≠ 0xF ∧ ¬ (0xF : RegIdx) ≠ 0xF := by decide

/-- The last I in bounds, and the first out. -/
theorem witness_DecimalDigitsAreStored :
    ({ base with i := 0xFFD } : State).i.toNat + 2 ≤ 4095 ∧ ({ base with i := 0xFFE } : State).i.toNat + 2 > 4095 := by decide

/-- The last I in bounds for all 16 registers, and the first out; loads have the same bounds. -/
theorem witness_RegistersAreStored :
    ({ base with i := 0xFF0 } : State).i.toNat + (0xF : RegIdx).toNat ≤ 4095 ∧
    ({ base with i := 0xFF1 } : State).i.toNat + (0xF : RegIdx).toNat > 4095 := by decide

/-- Stores that end at the last byte, and for each stored byte a `pc` that fetches it high and a `pc` that fetches it low:
all of F155, F055 alone, and Fx33. -/
theorem witness_StoredBytesAreFetchedNext :
    (∃ t, exec (.storeRegs 1) { base with i := 0xFFE } = .next t) ∧ (0xFFE : Word).toNat + (1 : RegIdx).toNat ≤ 4095 ∧
    ({ base with pc := 0xFFE } : State).pc.toNat = (0xFFE : Word).toNat + (0 : RegIdx).toNat ∧
    (0xFFE : Word).toNat + (0 : RegIdx).toNat ≤ 4094 ∧
    ({ base with pc := 0xFFE } : State).pc.toNat + 1 = (0xFFE : Word).toNat + (1 : RegIdx).toNat ∧
    (∃ t, exec (.storeRegs 0) { base with i := 0xFFF } = .next t) ∧ (0xFFF : Word).toNat + (0 : RegIdx).toNat ≤ 4095 ∧
    ({ base with pc := 0xFFE } : State).pc.toNat + 1 = (0xFFF : Word).toNat + (0 : RegIdx).toNat ∧
    (∃ t, exec (.ldB 1) { base with i := 0xFFD } = .next t) ∧ (0xFFD : Word).toNat + 2 ≤ 4095 ∧
    ({ base with pc := 0xFFC } : State).pc.toNat + 1 = (0xFFD : Word).toNat ∧
    ({ base with pc := 0xFFD } : State).pc.toNat = (0xFFD : Word).toNat ∧
    ({ base with pc := 0xFFD } : State).pc.toNat + 1 = (0xFFD : Word).toNat + 1 ∧
    ({ base with pc := 0xFFE } : State).pc.toNat = (0xFFD : Word).toNat + 1 ∧
    ({ base with pc := 0xFFE } : State).pc.toNat + 1 = (0xFFD : Word).toNat + 2 := by
  refine ⟨⟨_, rfl⟩, ?_, ?_, ?_, ?_, ⟨_, rfl⟩, ?_, ?_, ⟨_, rfl⟩, ?_, ?_, ?_, ?_, ?_, ?_⟩ <;> decide

/-- R75: a byte that F055 stores at I is the low byte of the word at I - 1 and the high byte of the word at I; the other
halves are the old bytes. -/
theorem test_fetch_sees_half_overwritten_words :
    fetch { after (exec (.storeRegs 0) { withRegs [(0, 0x6A)] with i := 0x300 }) with pc := 0x2FF } = .ok 0x006A ∧
    fetch { after (exec (.storeRegs 0) { withRegs [(0, 0x6A)] with i := 0x300 }) with pc := 0x300 } = .ok 0x6A00 := ⟨rfl, rfl⟩

/-- A sprite of 15 rows at the last origin. -/
theorem witness_BlitIsTheXorOfTheSprite :
    (List.replicate 15 (0xFF : Byte)).length ≤ 15 ∧ 63 < 64 ∧ 31 < 32 := by decide

/-- No rows, and a sprite that ends at the last byte. -/
theorem witness_DrawCompositesTheSprite :
    ((0 : Nibble).toNat = 0 ∨ ({ base with i := 0xFFFF } : State).i.toNat + (0 : Nibble).toNat - 1 ≤ 4095) ∧
    ({ base with i := 0xFFB } : State).i.toNat + (5 : Nibble).toNat - 1 ≤ 4095 := by decide

/-- A sprite whose last byte is the first out of bounds. -/
theorem witness_DrawOutOfBoundsHalts :
    (5 : Nibble).toNat > 0 ∧ ({ base with i := 0xFFC } : State).i.toNat + (5 : Nibble).toNat - 1 > 4095 := by decide

/-- Two draws on a blank buffer, whose pixels are all unlit. -/
theorem witness_DrawingTwiceRestoresTheBuffer :
    (0 : RegIdx) ≠ 0xF ∧ (1 : RegIdx) ≠ 0xF ∧ base.i.toNat + (5 : Nibble).toNat - 1 ≤ 4095 ∧
    (∃ t u, exec (.drw 0 1 5) base = .next t ∧ exec (.drw 0 1 5) t = .next u) ∧ ∀ l : Fin 2048, pixel base.fb l.val = false := by
  refine ⟨by decide, by decide, by decide, ⟨_, _, rfl, rfl⟩, fun l => ?_⟩
  have h : l.val / 64 < 32 := by omega
  simp [base, State.reset, pixel, h]

/-- The longest image that fits, and the shortest that does not. -/
theorem witness_ResetLoadsTheImage :
    (List.replicate 3584 (0 : Byte)).length ≤ 3584 ∧ (List.replicate 3585 (0 : Byte)).length > 3584 ∧
    (⟨⟨Config.font⟩, rfl⟩ : Vector Byte 80).toList = Config.font := ⟨by rw [List.length_replicate], by rw [List.length_replicate]; decide, rfl⟩

/-- The reference rate is a multiple of 60. -/
theorem witness_ReferenceScheduleIsPaced :
    60 ∣ Config.cpuHz := by decide

end Sys2Proof.Tests
end

/-! SUPPORT. How executing one instruction can end (60_exceptions.md rules R220, R222 to R224), and with it which
instructions raise (00_scope.md rule R16). -/

namespace Sys2Proof.Machine

/-! ### How an instruction ends -/

/-- How many bytes of memory from I on an instruction accesses as data (R164, R165, R166, R186). -/
def dataSpan : Instr → Nat
  | .ldB _ => 3
  | .storeRegs x | .loadRegs x => regCount x
  | .drw _ _ n => n.toNat
  | _ => 0

/-- In state `s` the instruction raises the error of this kind, with this address in its record. -/
inductive Raises (s : State) : Instr → ErrorKind → Option Nat → Prop where
  /-- R223. -/
  | underflow : s.sp = 0 → Raises s .ret .stackUnderflow none
  /-- R222. -/
  | overflow (nnn : Addr12) : s.sp = 16 → Raises s (.call nnn) .stackOverflow none
  /-- R224. -/
  | span (i : Instr) : 0 < dataSpan i → s.i.toNat + dataSpan i > Config.memSize →
      Raises s i .outOfBounds (some (max s.i.toNat Config.memSize))

/-- The instruction, executed in `s`, can end in `t`: as far as the mode and the errors go. -/
inductive EndsIn (i : Instr) (s t : State) : Prop where
  /-- It completes, and the mode is as before. -/
  | completes : t.mode = s.mode → EndsIn i s t
  /-- `Fx0A` enters its wait (R204). -/
  | waits (x : RegIdx) : i = .ldVxK x → t.mode = .awaitingKey x → EndsIn i s t
  /-- It raises, and nothing but the mode has changed (R220). -/
  | raises (k : ErrorKind) (a : Option Nat) : Raises s i k a → t = s.raise k (some (encode i)) a → EndsIn i s t

/-- A bounds-checked transfer over the instruction's own span completes or raises OutOfBounds. -/
theorem State.checkSpan_endsIn (s : State) (i : Instr) {u : State} (hu : u.mode = s.mode) :
    ∃ t, s.checkSpan i (dataSpan i) (.next u) = .next t ∧ EndsIn i s t := by
  obtain ⟨-, h⟩ | ⟨⟨hpos, hout⟩, h⟩ := s.checkSpan_cases i (dataSpan i) (.next u)
  · exact ⟨u, h, .completes hu⟩
  · exact ⟨_, h, .raises _ _ (.span i hpos hout) rfl⟩

theorem execRet_endsIn (s : State) : ∃ t, execRet s = .next t ∧ EndsIn .ret s t := by
  unfold execRet
  split
  next r u hpop =>
    obtain ⟨-, -, -, rfl⟩ := State.pop_eq_some hpop
    exact ⟨_, rfl, .completes rfl⟩
  next hpop => exact ⟨_, rfl, .raises _ _ (.underflow ((State.pop_eq_none_iff s).mp hpop)) rfl⟩

theorem execCall_endsIn (nnn : Addr12) (s : State) : ∃ t, execCall nnn s = .next t ∧ EndsIn (.call nnn) s t := by
  unfold execCall
  split
  next u hpush =>
    obtain ⟨-, rfl⟩ := State.push_eq_some hpush
    exact ⟨_, rfl, .completes rfl⟩
  next hpush => exact ⟨_, rfl, .raises _ _ (.overflow nnn ((State.push_eq_none_iff s s.pc).mp hpush)) rfl⟩

/-- Executing any instruction answers a next state, and it ends in one of the ways `EndsIn` lists. -/
theorem exec_endsIn (i : Instr) (s : State) : ∃ t, exec i s = .next t ∧ EndsIn i s t := by
  cases i with
  | ret => exact execRet_endsIn s
  | call nnn => exact execCall_endsIn nnn s
  | ldB x => exact s.checkSpan_endsIn (.ldB x) rfl
  | storeRegs x => exact s.checkSpan_endsIn (.storeRegs x) rfl
  | loadRegs x => exact s.checkSpan_endsIn (.loadRegs x) rfl
  | drw x y n => exact s.checkSpan_endsIn (.drw x y n) rfl
  | ldVxK x => exact ⟨_, rfl, .waits x rfl rfl⟩
  | _ => exact ⟨_, rfl, .completes rfl⟩

/-- An instruction that takes a running machine to a halted one has raised the error of the record. -/
theorem exec_halted {i : Instr} {s t : State} {e : ErrorRecord} (hrun : s.mode = .running) (hexec : exec i s = .next t)
    (hhalt : t.mode = .halted e) :
    Raises s i e.kind e.addr ∧ e.pc = s.pc ∧ e.opcode = some (encode i) ∧ t = { s with mode := .halted e } := by
  obtain ⟨u, hu, hends⟩ := exec_endsIn i s
  obtain rfl : u = t := Host.Outcome.next.inj (hu.symm.trans hexec)
  cases hends with
  | completes hmode => simp [hmode, hrun] at hhalt
  | waits x _ hmode => simp [hmode] at hhalt
  | raises k a hraise ht =>
    subst ht
    obtain rfl := Mode.halted.inj hhalt
    exact ⟨hraise, rfl, rfl, rfl⟩

/-! ### Which instructions raise (R16) -/

/-- The transfers that can leave the memory, each with the last address it accesses. -/
theorem dataSpan_out_of_bounds {i : Instr} {base : Nat} (hpos : 0 < dataSpan i)
    (hout : base + dataSpan i > Config.memSize) :
    (∃ x, i = .ldB x ∧ base + 2 ≥ 4096) ∨
      (∃ x, (i = .storeRegs x ∨ i = .loadRegs x) ∧ base + x.toNat ≥ 4096) ∨
      (∃ x y n, i = .drw x y n ∧ n.toNat > 0 ∧ base + n.toNat - 1 ≥ 4096) := by
  cases i with
  | ldB x => exact .inl ⟨x, rfl, Nat.le_of_lt_succ hout⟩
  | storeRegs x => exact .inr (.inl ⟨x, .inl rfl, Nat.le_of_lt_succ hout⟩)
  | loadRegs x => exact .inr (.inl ⟨x, .inr rfl, Nat.le_of_lt_succ hout⟩)
  | drw x y n => exact .inr (.inr ⟨x, y, n, rfl, hpos, Nat.le_sub_one_of_lt hout⟩)
  | _ => exact absurd hpos (Nat.lt_irrefl 0)

/-- Settles O17: a running machine that an instruction halts has raised, and `Raises` lists who can. -/
theorem onlyTheseInstructionsRaise : Obligations.OnlyTheseInstructionsRaise := by
  intro i s t e hrun hexec hhalt
  obtain ⟨hraise, -⟩ := exec_halted hrun hexec hhalt
  obtain ⟨kind, pc, opcode, addr⟩ := e
  cases hraise with
  | underflow hsp => exact .inl ⟨rfl, congrArg Fin.val hsp, rfl⟩
  | overflow nnn hsp => exact .inr (.inl ⟨nnn, rfl, congrArg Fin.val hsp, rfl⟩)
  | span _ hpos hout => exact .inr (.inr ⟨rfl, rfl, dataSpan_out_of_bounds hpos hout⟩)

end Sys2Proof.Machine

/-! SUPPORT. What executing one instruction can write (10_state.md rules R23, R24, R30, R33, R36; 30_encoding.md rule R98),
said once, and the statements about who writes what. -/

namespace Sys2Proof.Machine

/-! ### The effect of an instruction -/

/-- Executing the instruction in `s` can end in the given state: which pieces of `s` the instruction may write. Values that
no frame needs are left open. -/
inductive Effect (s : State) : Instr → State → Prop where
  /-- Any error: the mode alone changes (R220). -/
  | raised {i : Instr} (k : ErrorKind) (o : Option Word) (a : Option Nat) : Effect s i (s.raise k o a)
  /-- Jumps, skips and SYS: `pc` alone changes. -/
  | control {i : Instr} (pc : Word) : Effect s i { s with pc := pc }
  /-- One register, without a flag (R23). -/
  | register {i : Instr} (x : RegIdx) (b : Byte) : writesReg i x = true → Effect s i (s.setV x b).endCycle
  /-- A result and then its flag (R22). -/
  | flagged {i : Instr} (x : RegIdx) (r : Byte × Bool) : writesReg i x = true → writesReg i 0xF = true →
      Effect s i (s.setFlagged x r).endCycle
  /-- `Fx65` (R166). -/
  | load (x : RegIdx) : Effect s (.loadRegs x)
      { s with v := loadBytes s.v 0 (readBytes s.mem s.i.toNat (regCount x)) }.endCycle
  /-- The index register (R24). -/
  | index {i : Instr} (w : Word) : ((∃ nnn, i = .ldI nnn) ∨ (∃ x, i = .addI x) ∨ ∃ x, i = .ldF x) →
      Effect s i { s with i := w }.endCycle
  /-- `Fx33` (R164). -/
  | digits (x : RegIdx) : Effect s (.ldB x)
      { s with mem := storeBytes s.mem s.i.toNat (decimalDigits (s.getV x)) }.endCycle
  /-- `Fx55` (R165). -/
  | store (x : RegIdx) : Effect s (.storeRegs x)
      { s with mem := storeBytes s.mem s.i.toNat (s.lowRegs x) }.endCycle
  /-- `00E0` (R185). -/
  | clear : Effect s .cls { s with fb := clearedSurface }.present.endCycle
  /-- `Dxyn` (R186). -/
  | draw (x y : RegIdx) (n : Nibble) : Effect s (.drw x y n)
      ({ s with fb := (s.drawn x y n).1 }.setFlag (s.drawn x y n).2).present.endCycle
  /-- `2nnn` (R115). -/
  | call (nnn : Addr12) (stack : Vector Word 16) (sp : Fin 17) (pc : Word) : Effect s (.call nnn)
      { s with stack := stack, sp := sp, pc := pc }
  /-- `00EE` (R112). -/
  | ret (sp : Fin 17) (pc : Word) : Effect s .ret { s with sp := sp, pc := pc }
  /-- `Fx15` (R205). -/
  | delay (x : RegIdx) : Effect s (.ldDtVx x) { s with dt := s.getV x }.endCycle
  /-- `Fx18` (R206). -/
  | sound (x : RegIdx) : Effect s (.ldStVx x) { s with st := s.getV x }.endCycle
  /-- `Fx0A` (R204). -/
  | wait (x : RegIdx) : Effect s (.ldVxK x) { s with mode := .awaitingKey x }.endCycle

/-- A bounds-checked transfer has the effect of the transfer, or raises. -/
theorem Effect.of_checkSpan {s u t : State} {i : Instr} {len : Nat} (hu : Effect s i u)
    (h : s.checkSpan i len (.next u) = .next t) : Effect s i t := by
  obtain ⟨-, hact⟩ | ⟨-, hraise⟩ := s.checkSpan_cases i len (.next u)
  · obtain rfl := Host.Outcome.next.inj (hact.symm.trans h)
    exact hu
  · obtain rfl := Host.Outcome.next.inj (hraise.symm.trans h)
    exact .raised _ _ _

theorem Effect.of_execRet {s t : State} (h : execRet s = .next t) : Effect s .ret t := by
  unfold execRet at h
  split at h <;> obtain rfl := Host.Outcome.next.inj h
  next w u hpop =>
    obtain ⟨-, -, -, rfl⟩ := State.pop_eq_some hpop
    exact .ret _ _
  next => exact .raised _ _ _

theorem Effect.of_execCall {nnn : Addr12} {s t : State} (h : execCall nnn s = .next t) : Effect s (.call nnn) t := by
  unfold execCall at h
  split at h <;> obtain rfl := Host.Outcome.next.inj h
  next u hpush =>
    obtain ⟨-, rfl⟩ := State.push_eq_some hpush
    exact .call _ _ _ _
  next => exact .raised _ _ _

/-- What an instruction answers is one of the effects that `Effect` lists for it. -/
theorem Effect.of_exec {i : Instr} {s t : State} (h : exec i s = .next t) : Effect s i t := by
  cases i with
  | ret => exact .of_execRet h
  | call nnn => exact .of_execCall h
  | drw x y n => exact .of_checkSpan (.draw x y n) h
  | ldB x => exact .of_checkSpan (.digits x) h
  | storeRegs x => exact .of_checkSpan (.store x) h
  | loadRegs x => exact .of_checkSpan (.load x) h
  | cls => cases h; exact .clear
  | ldDtVx x => cases h; exact .delay x
  | ldStVx x => cases h; exact .sound x
  | ldVxK x => cases h; exact .wait x
  | ldI nnn => cases h; exact .index _ (.inl ⟨nnn, rfl⟩)
  | addI x => cases h; exact .index _ (.inr (.inl ⟨x, rfl⟩))
  | ldF x => cases h; exact .index _ (.inr (.inr ⟨x, rfl⟩))
  | sys | jp | seImm | sneImm | seReg | sneReg | jpV0 | skp | sknp => cases h; exact .control _
  | ldImm x | addImm x | ldReg x | orReg x | andReg x | xorReg x | rnd x | ldVxDt x =>
    cases h
    exact .register x _ (decide_eq_true rfl)
  | addReg x | subReg x | shr x | subnReg x | shl x =>
    cases h
    exact .flagged x _ (decide_eq_true (.inl rfl)) (decide_eq_true (.inr rfl))

/-! ### Registers (R21, R23) -/

/-- The one register that a register write can change. -/
theorem State.eq_of_getV_setV_ne {s : State} {x r : RegIdx} {b : Byte} (hne : (s.setV x b).getV r ≠ s.getV r) :
    r = x := by
  by_contra hrx
  exact hne (by rw [State.getV_setV, if_neg hrx])

/-- The registers that a flagged result can change (R22). -/
theorem State.eq_of_getV_setFlagged_ne {s : State} {x r : RegIdx} {res : Byte × Bool}
    (hne : (s.setFlagged x res).getV r ≠ s.getV r) : r = x ∨ r = 0xF := by
  by_contra hr
  obtain ⟨hrx, hrF⟩ := not_or.mp hr
  exact hne (by rw [State.getV_setFlagged, if_neg hrF, if_neg hrx])

/-- A register after `Fx65` loads from memory: the byte at its place when its number is at most x, or as before (R166). -/
theorem State.getV_loadBytes_readBytes (s : State) (base len : Nat) (r : RegIdx) :
    State.getV { s with v := loadBytes s.v 0 (readBytes s.mem base len) } r =
      if r.toNat < len then s.mem.readByte (base + r.toNat) else s.getV r := by
  unfold State.getV
  rw [getElem_loadBytes, if_pos (Nat.zero_le _), Nat.sub_zero, readBytes_getElem?]
  split <;> rfl

/-- Settles O21: of the effects only `register`, `flagged`, `load` and `draw` touch a register, and each names it. -/
theorem registersChangeOnlyWhereWritten : Obligations.RegistersChangeOnlyWhereWritten := by
  intro i s t r hexec hne
  cases Effect.of_exec hexec with
  | register x b hx => exact State.eq_of_getV_setV_ne hne ▸ hx
  | flagged x res hx hF =>
    obtain rfl | rfl := State.eq_of_getV_setFlagged_ne hne
    · exact hx
    · exact hF
  | load x =>
    rw [State.getV_endCycle, State.getV_loadBytes_readBytes] at hne
    have hlt : r.toNat < regCount x := of_not_not fun hge => hne (if_neg hge)
    exact decide_eq_true (Nat.le_of_lt_succ hlt)
  | draw x y n => exact decide_eq_true (State.eq_of_getV_setV_ne hne)
  | _ => exact (hne rfl).elim

/-! ### Display, stack, timers (R30 to R33, R36) -/

/-- Settles O23: `clear` and `draw` are the effects that write the display or the strobe count. -/
theorem onlyClsAndDrwChangeTheDisplay : Obligations.OnlyClsAndDrwChangeTheDisplay := by
  intro i s t hexec hne
  cases Effect.of_exec hexec with
  | clear => exact .inl rfl
  | draw x y n => exact .inr ⟨x, y, n, rfl⟩
  | _ => exact hne.elim (absurd rfl) (absurd rfl)

/-- Settles O25: `call` and `ret` are the effects that write `sp`, and `call` the one that writes the stack. -/
theorem onlyCallAndRetTouchTheStack : Obligations.OnlyCallAndRetTouchTheStack := by
  intro i s t hexec
  cases Effect.of_exec hexec with
  | call nnn stack sp pc => exact ⟨fun _ => .inr ⟨nnn, rfl⟩, fun _ => ⟨nnn, rfl⟩⟩
  | ret sp pc => exact ⟨fun _ => .inl rfl, absurd rfl⟩
  | _ => exact ⟨absurd rfl, absurd rfl⟩

/-- Settles O26: `delay` is the effect that writes DT, and `sound` the one that writes ST. -/
theorem onlyTimerInstructionsChangeTimers : Obligations.OnlyTimerInstructionsChangeTimers := by
  intro i s t hexec
  cases Effect.of_exec hexec with
  | delay x => exact ⟨fun _ => ⟨x, rfl⟩, absurd rfl⟩
  | sound x => exact ⟨absurd rfl, fun _ => ⟨x, rfl⟩⟩
  | _ => exact ⟨absurd rfl, absurd rfl⟩

/-! ### Input signals (R12, R39) -/

/-- The state with other input signals. -/
def State.withInputs (s : State) (other : Inputs) : State := { s with inputs := other }

/-- The answer with other input signals in its state. -/
def withResultInputs (other : Inputs) : Result → Result
  | .next t => .next (t.withInputs other)
  | .fault f => .fault f
  | .refused r => .refused r

/-- The bounds check reads no input signal. -/
theorem State.checkSpan_withInputs (s : State) (other : Inputs) (i : Instr) (len : Nat) (act : Result) :
    withResultInputs other (s.checkSpan i len act) =
      (s.withInputs other).checkSpan i len (withResultInputs other act) := by
  unfold State.checkSpan State.withInputs
  dsimp only
  cases spanFault s.i.toNat len <;> rfl

theorem execRet_withInputs (s : State) (other : Inputs) :
    withResultInputs other (execRet s) = execRet (s.withInputs other) := by
  unfold execRet State.pop State.withInputs
  by_cases hsp : 0 < s.sp.val
  · simp only [dif_pos hsp]
    rfl
  · simp only [dif_neg hsp]
    rfl

theorem execCall_withInputs (nnn : Addr12) (s : State) (other : Inputs) :
    withResultInputs other (execCall nnn s) = execCall nnn (s.withInputs other) := by
  unfold execCall State.push State.withInputs
  by_cases hsp : s.sp.val < Config.stackDepth
  · simp only [dif_pos hsp]
    rfl
  · simp only [dif_neg hsp]
    rfl

/-- Replacing the input signals after an instruction that reads none is replacing them before it. -/
theorem exec_withInputs {i : Instr} (hreads : readsInputs i = false) (s : State) (other : Inputs) :
    withResultInputs other (exec i s) = exec i (s.withInputs other) := by
  cases i with
  | rnd | skp | sknp => cases hreads
  | ret => exact execRet_withInputs s other
  | call nnn => exact execCall_withInputs nnn s other
  | drw x y n => exact s.checkSpan_withInputs other (.drw x y n) _ _
  | ldB x => exact s.checkSpan_withInputs other (.ldB x) _ _
  | storeRegs x => exact s.checkSpan_withInputs other (.storeRegs x) _ _
  | loadRegs x => exact s.checkSpan_withInputs other (.loadRegs x) _ _
  | _ => rfl

/-- Settles O27: `exec_withInputs`, read for a run that answers `t`. -/
theorem onlyRndAndKeySkipsReadInputs : Obligations.OnlyRndAndKeySkipsReadInputs := by
  intro i s t other hreads hexec
  calc exec i (s.withInputs other)
    _ = withResultInputs other (exec i s) := (exec_withInputs hreads s other).symm
    _ = .next (t.withInputs other) := congrArg (withResultInputs other) hexec

end Sys2Proof.Machine

/-! SUPPORT. What the stores write to memory, and how a running cycle reads the word at `pc` and executes it (20_memory.md
rules R62, R68; 30_encoding.md rules R91, R94). -/

namespace Sys2Proof.Machine

/-! ### Where the stores write (R68) -/

/-- A store of bytes changes memory only at the addresses it stores to. -/
theorem address_of_readByte_storeBytes_ne {m : Memory} {base a : Nat} {ws : List Byte}
    (hne : Memory.readByte (storeBytes m base ws) a ≠ m.readByte a) : base ≤ a ∧ a < base + ws.length := by
  by_contra hout
  exact hne (readByte_storeBytes_outside m base ws a (by omega))

@[simp] theorem State.lowRegs_length (s : State) (x : RegIdx) : (s.lowRegs x).length = x.toNat + 1 := by
  have hx := x.isLt
  simp only [State.lowRegs, regCount, List.length_take, Vector.length_toList]
  omega

/-- Settles O22: `digits` and `store` are the effects that write memory, each from I on for as many bytes as it stores. -/
theorem onlyStoresChangeMemory : Obligations.OnlyStoresChangeMemory := by
  intro i s t a hexec hne
  cases Effect.of_exec hexec with
  | digits x =>
    obtain ⟨hlow, hhigh⟩ := address_of_readByte_storeBytes_ne hne
    exact .inl ⟨x, rfl, hlow, Nat.le_of_lt_succ hhigh⟩
  | store x =>
    obtain ⟨hlow, hhigh⟩ := address_of_readByte_storeBytes_ne hne
    rw [State.lowRegs_length] at hhigh
    exact .inr ⟨x, rfl, hlow, Nat.le_of_lt_succ hhigh⟩
  | _ => exact (hne rfl).elim

/-! ### The word a running cycle executes (R62, R91, R94) -/

/-- From an address that leaves room for two bytes, the fetch answers the word that stands at `pc` (R62, R93). -/
theorem fetch_eq_ok_wordAtPc {s : State} (hpc : s.pc.toNat + 1 ≤ 4095) :
    fetch s = .ok (BitVec.ofNat 16 (wordAtPc s)) := by
  obtain ⟨hout, -⟩ | ⟨hout, -⟩ | ⟨-, hfetch⟩ := fetch_cases s
  · omega
  · omega
  · rw [hfetch, wordAtPc, ← toNat_wordOfBytes, BitVec.ofNat_toNat, BitVec.setWidth_eq]

/-- When the fetched word decodes, the running cycle is `exec` of its instruction (R91, R94). -/
theorem runCycle_eq_exec {s : State} {o : Word} {i : Instr} (hfetch : fetch s = .ok o) (hdec : decodeWord o = some i) :
    runCycle s = exec i s := by
  simp only [runCycle, hfetch, hdec]

/-- A step whose event is a cycle of the running machine: what the cycle answers, and then new inputs. -/
theorem step_eq_of_runCycle {s t : State} (hevent : s.inputs.event = .cycle) (hrun : s.mode = .running)
    (hcycle : runCycle s = .next t) : step s = .next t.sampleInputs := by
  simp only [step, stepEvent, applyEvent, cycle, hevent, hrun, hcycle]

/-- Sampling the inputs anew touches only the input signals and the model's counter. -/
theorem State.sampleInputs_unchangedBut (s : State) :
    UnchangedBut s s.sampleInputs (fun p => p = .inputs ∨ p = .clock) := by
  intro p hp
  cases p with
  | inputs => exact absurd (.inl rfl) hp
  | clock => exact absurd (.inr rfl) hp
  | _ => rfl

/-- Settles O7: the cycle fetches the word at `pc` and executes it, and every instruction answers a next state. -/
theorem stepRunsTheDecodedInstruction : Obligations.StepRunsTheDecodedInstruction := by
  refine ⟨fun s i hevent hrun hpc hdec => ?_, State.sampleInputs_unchangedBut⟩
  obtain ⟨t, hexec, -⟩ := exec_endsIn i s
  have hcycle : runCycle s = .next t := (runCycle_eq_exec (fetch_eq_ok_wordAtPc hpc) hdec).trans hexec
  exact ⟨t, hexec, step_eq_of_runCycle hevent hrun hcycle⟩

end Sys2Proof.Machine

/-! SUPPORT. The scan of the instruction table: when a word matches a row, which rows overlap, what decoding makes of
an encoded instruction and encoding of a decoded word (30_encoding.md rules R81 to R89), with the halt of an undecodable
word (R88, R221). -/

namespace Sys2Proof

open Laws Machine

/-! ### A word by its fields (R81) -/

/-- The opcode's first nibble, o[15:12], fixed in every pattern. -/
def fieldOp (o : Word) : Nibble := o.extractLsb' 12 4

@[simp] theorem toNat_fieldOp (o : Word) : (fieldOp o).toNat = o.toNat / 4096 := by
  have := o.isLt
  rw [fieldOp, BitVec.extractLsb'_toNat, Nat.shiftRight_eq_div_pow]
  omega

@[simp] theorem toNat_fieldX (o : Word) : (fieldX o).toNat = o.toNat / 256 % 16 := by
  rw [fieldX, BitVec.extractLsb'_toNat, Nat.shiftRight_eq_div_pow]

@[simp] theorem toNat_fieldY (o : Word) : (fieldY o).toNat = o.toNat / 16 % 16 := by
  rw [fieldY, BitVec.extractLsb'_toNat, Nat.shiftRight_eq_div_pow]

@[simp] theorem toNat_fieldN (o : Word) : (fieldN o).toNat = o.toNat % 16 := BitVec.extractLsb'_toNat 0 4 o

@[simp] theorem toNat_fieldKk (o : Word) : (fieldKk o).toNat = o.toNat % 256 := BitVec.extractLsb'_toNat 0 8 o

@[simp] theorem toNat_fieldNnn (o : Word) : (fieldNnn o).toNat = o.toNat % 4096 := BitVec.extractLsb'_toNat 0 12 o

theorem fieldOp_append_nnn (o : Word) : (fieldOp o ++ fieldNnn o : Word) = o := by
  apply BitVec.eq_of_toNat_eq
  rw [toNat_word_nnn, toNat_fieldOp, toNat_fieldNnn]
  omega

theorem fieldOp_append_xkk (o : Word) : (fieldOp o ++ fieldX o ++ fieldKk o : Word) = o := by
  apply BitVec.eq_of_toNat_eq
  rw [toNat_word_byte, toNat_fieldOp, toNat_fieldX, toNat_fieldKk]
  omega

theorem fieldOp_append_xyn (o : Word) : (fieldOp o ++ fieldX o ++ fieldY o ++ fieldN o : Word) = o := by
  apply BitVec.eq_of_toNat_eq
  rw [toNat_word_nibbles, toNat_fieldOp, toNat_fieldX, toNat_fieldY, toNat_fieldN]
  omega

/-! ### A word under each mask of the table (R83) -/

theorem and_maskFFFF (o : Word) : o &&& 0xFFFF = o := BitVec.and_allOnes

theorem toNat_and_maskF000 (o : Word) : (o &&& 0xF000).toNat = o.toNat / 4096 * 4096 := by
  conv_lhs => rw [← fieldOp_append_nnn o, and_maskF000, toNat_word_nnn, toNat_fieldOp, BitVec.toNat_zero, Nat.add_zero]

theorem toNat_and_maskF00F (o : Word) : (o &&& 0xF00F).toNat = o.toNat / 4096 * 4096 + o.toNat % 16 := by
  conv_lhs => rw [← fieldOp_append_xyn o, and_maskF00F, toNat_word_nibbles, toNat_fieldOp, toNat_fieldN,
    BitVec.toNat_zero, Nat.zero_mul, Nat.add_zero]

theorem toNat_and_maskF0FF (o : Word) : (o &&& 0xF0FF).toNat = o.toNat / 4096 * 4096 + o.toNat % 256 := by
  conv_lhs => rw [← fieldOp_append_xkk o, and_maskF0FF, toNat_word_byte, toNat_fieldOp, toNat_fieldKk,
    BitVec.toNat_zero, Nat.zero_mul, Nat.add_zero]

theorem maskFFFF_eq_iff {o v : Word} : o &&& 0xFFFF = v ↔ o.toNat = v.toNat := by
  rw [and_maskFFFF, BitVec.toNat_inj]

theorem maskF000_eq_iff {o v : Word} : o &&& 0xF000 = v ↔ o.toNat / 4096 * 4096 = v.toNat := by
  rw [← BitVec.toNat_inj, toNat_and_maskF000]

theorem maskF00F_eq_iff {o v : Word} : o &&& 0xF00F = v ↔ o.toNat / 4096 * 4096 + o.toNat % 16 = v.toNat := by
  rw [← BitVec.toNat_inj, toNat_and_maskF00F]

theorem maskF0FF_eq_iff {o v : Word} : o &&& 0xF0FF = v ↔ o.toNat / 4096 * 4096 + o.toNat % 256 = v.toNat := by
  rw [← BitVec.toNat_inj, toNat_and_maskF0FF]

/-! ### The first match (R84, R87, R88) -/

theorem Row.selects_iff {r : Row} {o : Word} : r.selects o = true ↔ o &&& r.mask = r.value := beq_iff_eq

/-- A word decodes to what the first row that matches it builds. -/
theorem decodeWord_eq_build_of_first {o : Word} {k : Nat} {r : Row} (hr : table[k]? = some r)
    (hmatch : o &&& r.mask = r.value)
    (hfirst : ∀ (j : Nat) (q : Row), j < k → table[j]? = some q → o &&& q.mask ≠ q.value) :
    decodeWord o = some (r.build o) := by
  obtain ⟨hk, hget⟩ := List.getElem?_eq_some_iff.mp hr
  have hfind : table.find? (fun r => r.selects o) = some r := by
    refine List.find?_eq_some_iff_getElem.mpr ⟨Row.selects_iff.mpr hmatch, k, hk, hget, fun j hj => ?_⟩
    rw [Bool.not_eq_true', ← Bool.not_eq_true, Row.selects_iff]
    exact hfirst j _ hj (List.getElem?_eq_getElem (hj.trans hk))
  rw [decodeWord, hfind, Option.map_some]

/-- What a word decodes to is built by a row that the word matches. -/
theorem exists_row_of_decodeWord {o : Word} {i : Instr} (h : decodeWord o = some i) :
    ∃ r ∈ table, o &&& r.mask = r.value ∧ r.build o = i := by
  obtain ⟨r, hfind, hbuild⟩ := Option.map_eq_some_iff.mp h
  have hsel : r.selects o = true := List.find?_some (p := fun r : Row => r.selects o) hfind
  exact ⟨r, List.mem_of_find?_eq_some hfind, Row.selects_iff.mp hsel, hbuild⟩

/-- The word matches none of the rows. -/
def Unmatched (o : Word) (rows : List Row) : Prop := ∀ r ∈ rows, o &&& r.mask ≠ r.value

theorem unmatched_nil (o : Word) : Unmatched o [] := List.forall_mem_nil _

theorem unmatched_cons {o : Word} {r : Row} {rows : List Row} :
    Unmatched o (r :: rows) ↔ o &&& r.mask ≠ r.value ∧ Unmatched o rows := List.forall_mem_cons

theorem unmatched_append {o : Word} {rows rows' : List Row} :
    Unmatched o (rows ++ rows') ↔ Unmatched o rows ∧ Unmatched o rows' := List.forall_mem_append

theorem decodeWord_eq_none_iff {o : Word} : decodeWord o = none ↔ Unmatched o table := by
  simp only [decodeWord, Unmatched, Option.map_eq_none_iff, List.find?_eq_none, Row.selects_iff, ne_eq]

/-! ### The overlap of the matchers (R87) -/

/-- Two matchers have the same nibbles where both fix one. -/
abbrev Row.Agrees (q r : Row) : Prop := q.value &&& r.mask = r.value &&& q.mask

/-- Matchers that match one word agree. -/
theorem Row.agrees_of_match {q r : Row} {o : Word} (hq : o &&& q.mask = q.value) (hr : o &&& r.mask = r.value) :
    q.Agrees r := by
  rw [Row.Agrees, ← hq, ← hr, BitVec.and_assoc, BitVec.and_assoc, BitVec.and_comm q.mask]

/-- Of the 35 matchers, only the third agrees with an earlier one. -/
theorem eq_two_of_table_agrees : ∀ j k : Fin table.length, j < k → table[j].Agrees table[k] → k.val = 2 := by decide

/-- The words that two rows match are the opcodes of CLS and RET, which SYS also matches (R87). -/
theorem eq_of_two_matches {o : Word} {j k : Nat} {q r : Row} (hjk : j < k) (hq : table[j]? = some q)
    (hr : table[k]? = some r) (hoq : o &&& q.mask = q.value) (hor : o &&& r.mask = r.value) :
    k = 2 ∧ (j = 0 ∧ o = 0x00E0 ∨ j = 1 ∧ o = 0x00EE) := by
  obtain ⟨hj, rfl⟩ := List.getElem?_eq_some_iff.mp hq
  obtain ⟨hk, rfl⟩ := List.getElem?_eq_some_iff.mp hr
  obtain rfl : k = 2 := eq_two_of_table_agrees ⟨j, hj⟩ ⟨k, hk⟩ hjk (Row.agrees_of_match hoq hor)
  refine ⟨rfl, ?_⟩
  match j with
  | 0 => exact .inl ⟨rfl, (and_maskFFFF o).symm.trans hoq⟩
  | 1 => exact .inr ⟨rfl, (and_maskFFFF o).symm.trans hoq⟩

/-! ### Decoding inverts encoding (R83, R84) -/

theorem ownRow : ∀ i : Instr, OwnRow.Statement i
  | .cls => OwnRow.cls
  | .ret => OwnRow.ret
  | .sys nnn => OwnRow.sys nnn
  | .jp nnn => OwnRow.jp nnn
  | .call nnn => OwnRow.call nnn
  | .seImm x kk => OwnRow.seImm x kk
  | .sneImm x kk => OwnRow.sneImm x kk
  | .seReg x y => OwnRow.seReg x y
  | .ldImm x kk => OwnRow.ldImm x kk
  | .addImm x kk => OwnRow.addImm x kk
  | .ldReg x y => OwnRow.ldReg x y
  | .orReg x y => OwnRow.orReg x y
  | .andReg x y => OwnRow.andReg x y
  | .xorReg x y => OwnRow.xorReg x y
  | .addReg x y => OwnRow.addReg x y
  | .subReg x y => OwnRow.subReg x y
  | .shr x y => OwnRow.shr x y
  | .subnReg x y => OwnRow.subnReg x y
  | .shl x y => OwnRow.shl x y
  | .sneReg x y => OwnRow.sneReg x y
  | .ldI nnn => OwnRow.ldI nnn
  | .jpV0 nnn => OwnRow.jpV0 nnn
  | .rnd x kk => OwnRow.rnd x kk
  | .drw x y n => OwnRow.drw x y n
  | .skp x => OwnRow.skp x
  | .sknp x => OwnRow.sknp x
  | .ldVxDt x => OwnRow.ldVxDt x
  | .ldDtVx x => OwnRow.ldDtVx x
  | .ldStVx x => OwnRow.ldStVx x
  | .ldVxK x => OwnRow.ldVxK x
  | .addI x => OwnRow.addI x
  | .ldF x => OwnRow.ldF x
  | .ldB x => OwnRow.ldB x
  | .storeRegs x => OwnRow.storeRegs x
  | .loadRegs x => OwnRow.loadRegs x

/-- A SYS is well formed when its address is none of the two that CLS and RET take (R87). -/
theorem Instr.wf_sys_iff {nnn : Addr12} : (Instr.sys nnn).wf = true ↔ nnn ≠ 0x0E0 ∧ nnn ≠ 0x0EE := by
  rw [Instr.wf, Bool.and_eq_true, bne_iff_ne, bne_iff_ne]

/-- Settles O1: an instruction's own row takes its word, because an earlier row that matched it too would make the
instruction one of the two ill-formed SYS. -/
theorem decodeInvertsEncode : Obligations.DecodeInvertsEncode := by
  intro i hwf
  obtain ⟨k, r, hr, hsel, hbuild⟩ := ownRow i
  have hmatch := Row.selects_iff.mp hsel
  rw [← hbuild] at hwf
  refine (decodeWord_eq_build_of_first hr hmatch fun j q hjk hq hearlier => ?_).trans (congrArg some hbuild)
  obtain ⟨rfl, hword⟩ := eq_of_two_matches hjk hq hr hearlier hmatch
  obtain rfl := Option.some.inj hr
  obtain ⟨hE0, hEE⟩ := Instr.wf_sys_iff.mp hwf
  obtain ⟨-, ho⟩ | ⟨-, ho⟩ := hword
  · exact hE0 (congrArg fieldNnn ho)
  · exact hEE (congrArg fieldNnn ho)

/-! ### Encoding inverts decoding (R81, R83) -/

/-- An instruction that its own word decodes to is well formed: the ill-formed SYS have the words of CLS and RET. -/
theorem wf_of_decodeWord_encode {i : Instr} (h : decodeWord (encode i) = some i) : i.wf = true := by
  cases i with
  | sys nnn =>
    rw [Instr.wf_sys_iff]
    constructor
    · rintro rfl
      exact absurd h (by decide)
    · rintro rfl
      exact absurd h (by decide)
  | _ => rfl

/-! The fields of a word that matches a pattern, and the word that they make with the pattern's fixed nibbles. -/

theorem fieldOp_of_maskF000 {o : Word} {a : Nibble} (h : o &&& 0xF000 = (a ++ 0#12 : Word)) : fieldOp o = a := by
  have hnum := maskF000_eq_iff.mp h
  rw [toNat_word_nnn, BitVec.toNat_zero] at hnum
  apply BitVec.eq_of_toNat_eq
  rw [toNat_fieldOp]
  omega

theorem fields_of_maskF00F {o : Word} {a d : Nibble} (h : o &&& 0xF00F = (a ++ 0#4 ++ 0#4 ++ d : Word)) :
    fieldOp o = a ∧ fieldN o = d := by
  have hnum := maskF00F_eq_iff.mp h
  have hd := d.isLt
  rw [toNat_word_nibbles, BitVec.toNat_zero] at hnum
  constructor <;> apply BitVec.eq_of_toNat_eq
  · rw [toNat_fieldOp]
    omega
  · rw [toNat_fieldN]
    omega

theorem fields_of_maskF0FF {o : Word} {a : Nibble} {d : Byte} (h : o &&& 0xF0FF = (a ++ 0#4 ++ d : Word)) :
    fieldOp o = a ∧ fieldKk o = d := by
  have hnum := maskF0FF_eq_iff.mp h
  have hd := d.isLt
  rw [toNat_word_byte, BitVec.toNat_zero] at hnum
  constructor <;> apply BitVec.eq_of_toNat_eq
  · rw [toNat_fieldOp]
    omega
  · rw [toNat_fieldKk]
    omega

theorem word_of_match {o v : Word} (h : o &&& 0xFFFF = v) : v = o := h.symm.trans (and_maskFFFF o)

theorem word_nnn_of_match (a : Nibble) {o : Word} (h : o &&& 0xF000 = (a ++ 0#12 : Word)) :
    (a ++ fieldNnn o : Word) = o := by
  rw [← fieldOp_of_maskF000 h, fieldOp_append_nnn]

theorem word_xkk_of_match (a : Nibble) {o : Word} (h : o &&& 0xF000 = (a ++ 0#12 : Word)) :
    (a ++ fieldX o ++ fieldKk o : Word) = o := by
  rw [← fieldOp_of_maskF000 h, fieldOp_append_xkk]

theorem word_xyn_of_match (a : Nibble) {o : Word} (h : o &&& 0xF000 = (a ++ 0#12 : Word)) :
    (a ++ fieldX o ++ fieldY o ++ fieldN o : Word) = o := by
  rw [← fieldOp_of_maskF000 h, fieldOp_append_xyn]

theorem word_xy_of_match (a d : Nibble) {o : Word} (h : o &&& 0xF00F = (a ++ 0#4 ++ 0#4 ++ d : Word)) :
    (a ++ fieldX o ++ fieldY o ++ d : Word) = o := by
  obtain ⟨rfl, rfl⟩ := fields_of_maskF00F h
  exact fieldOp_append_xyn o

theorem word_x_of_match (a : Nibble) (d : Byte) {o : Word} (h : o &&& 0xF0FF = (a ++ 0#4 ++ d : Word)) :
    (a ++ fieldX o ++ d : Word) = o := by
  obtain ⟨rfl, rfl⟩ := fields_of_maskF0FF h
  exact fieldOp_append_xkk o

/-- A word that matches the row is the encoding of the instruction that the row builds from it. -/
abbrev Row.EncodesBack (o : Word) (r : Row) : Prop := o &&& r.mask = r.value → encode (r.build o) = o

theorem tableControl_encodesBack (o : Word) : ∀ r ∈ tableControl, r.EncodesBack o := by
  simp only [tableControl, List.forall_mem_cons]
  exact ⟨word_of_match, word_of_match, word_nnn_of_match 0x0, word_nnn_of_match 0x1, word_nnn_of_match 0x2,
    word_xkk_of_match 0x3, word_xkk_of_match 0x4, word_xy_of_match 0x5 0x0, List.forall_mem_nil _⟩

theorem tableAlu_encodesBack (o : Word) : ∀ r ∈ tableAlu, r.EncodesBack o := by
  simp only [tableAlu, List.forall_mem_cons]
  exact ⟨word_xkk_of_match 0x6, word_xkk_of_match 0x7, word_xy_of_match 0x8 0x0, word_xy_of_match 0x8 0x1,
    word_xy_of_match 0x8 0x2, word_xy_of_match 0x8 0x3, word_xy_of_match 0x8 0x4, word_xy_of_match 0x8 0x5,
    word_xy_of_match 0x8 0x6, word_xy_of_match 0x8 0x7, word_xy_of_match 0x8 0xE, List.forall_mem_nil _⟩

theorem tableMixed_encodesBack (o : Word) : ∀ r ∈ tableMixed, r.EncodesBack o := by
  simp only [tableMixed, List.forall_mem_cons]
  exact ⟨word_xy_of_match 0x9 0x0, word_nnn_of_match 0xA, word_nnn_of_match 0xB, word_xkk_of_match 0xC,
    word_xyn_of_match 0xD, word_x_of_match 0xE 0x9E, word_x_of_match 0xE 0xA1, List.forall_mem_nil _⟩

theorem tableF_encodesBack (o : Word) : ∀ r ∈ tableF, r.EncodesBack o := by
  simp only [tableF, List.forall_mem_cons]
  exact ⟨word_x_of_match 0xF 0x07, word_x_of_match 0xF 0x15, word_x_of_match 0xF 0x18, word_x_of_match 0xF 0x0A,
    word_x_of_match 0xF 0x1E, word_x_of_match 0xF 0x29, word_x_of_match 0xF 0x33, word_x_of_match 0xF 0x55,
    word_x_of_match 0xF 0x65, List.forall_mem_nil _⟩

theorem table_encodesBack (o : Word) : ∀ r ∈ table, r.EncodesBack o := by
  simp only [table, List.forall_mem_append]
  exact ⟨⟨⟨tableControl_encodesBack o, tableAlu_encodesBack o⟩, tableMixed_encodesBack o⟩, tableF_encodesBack o⟩

/-- Settles O2: a word decodes through a row that it matches, and every row's instruction encodes to the word. -/
theorem encodeInvertsDecode : Obligations.EncodeInvertsDecode := by
  intro o i hdec
  obtain ⟨r, hr, hmatch, hbuild⟩ := exists_row_of_decodeWord hdec
  have henc : encode i = o := hbuild ▸ table_encodesBack o r hr hmatch
  exact ⟨wf_of_decodeWord_encode (henc.symm ▸ hdec), henc⟩

/-! ### Dispatch (R87) -/

theorem encode_sys_of_le {o : Word} (h : o.toNat ≤ 0x0FFF) : encode (.sys (BitVec.ofNat 12 o.toNat)) = o := by
  apply BitVec.eq_of_toNat_eq
  rw [encode, toNat_word_nnn, BitVec.toNat_zero, BitVec.toNat_ofNat]
  omega

theorem decodeWord_of_le {o : Word} (h : o.toNat ≤ 0x0FFF) : decodeWord o = some
    (if o = 0x00E0 then .cls else if o = 0x00EE then .ret else .sys (BitVec.ofNat 12 o.toNat)) := by
  have henc := encode_sys_of_le h
  split
  next hE0 => rw [hE0]; rfl
  next hE0 =>
    split
    next hEE => rw [hEE]; rfl
    next hEE =>
      have hwf : (Instr.sys (BitVec.ofNat 12 o.toNat)).wf = true :=
        Instr.wf_sys_iff.mpr ⟨fun h0 => hE0 (by rw [← henc, h0]; rfl), fun h0 => hEE (by rw [← henc, h0]; rfl)⟩
      conv_lhs => rw [← henc, decodeInvertsEncode _ hwf]

/-- Settles O4: `find?` answers the first match, two matches mean agreeing matchers, and a SYS is decoded from its
encoding. -/
theorem dispatchIsFirstMatch : Obligations.DispatchIsFirstMatch :=
  ⟨fun _ _ _ hr hmatch hfirst => decodeWord_eq_build_of_first hr hmatch hfirst,
    fun _ _ _ _ _ hjk hq hr hoq hor => eq_of_two_matches hjk hq hr hoq hor,
    fun _ h => decodeWord_of_le h⟩

/-- Settles O3: a finite check of the table. -/
theorem matcherValuesLieInMasks : Obligations.MatcherValuesLieInMasks := ⟨rfl, by decide⟩

/-- Settles O6: each word is the encoding of the instruction it stands for. -/
theorem writtenOutWordsDecode : Obligations.WrittenOutWordsDecode :=
  ⟨decodeInvertsEncode .cls rfl, decodeInvertsEncode .ret rfl, decodeInvertsEncode (.sys 0x123) rfl,
    decodeInvertsEncode (.call 0xABC) rfl, decodeInvertsEncode (.seImm 3 0x42) rfl,
    decodeInvertsEncode (.subReg 1 2) rfl, decodeInvertsEncode (.shr 4 0xF) rfl, decodeInvertsEncode (.jpV0 0xFFF) rfl,
    decodeInvertsEncode (.rnd 3 0x0F) rfl, decodeInvertsEncode (.drw 1 2 7) rfl, decodeInvertsEncode (.skp 1) rfl,
    decodeInvertsEncode (.ldVxK 2) rfl, decodeInvertsEncode (.ldB 5) rfl, decodeInvertsEncode (.loadRegs 1) rfl⟩

/-! ### The words that match no row (R89) -/

theorem unmatched_tableControl (o : Word) : Unmatched o tableControl ↔
    5 ≤ o.toNat / 4096 ∧ (o.toNat / 4096 = 5 → o.toNat % 16 ≠ 0) := by
  simp only [tableControl, unmatched_cons, unmatched_nil, and_true, ne_eq, maskFFFF_eq_iff,
    maskF000_eq_iff, maskF00F_eq_iff, BitVec.reduceToNat]
  omega

theorem unmatched_tableAlu (o : Word) : Unmatched o tableAlu ↔
    o.toNat / 4096 ≠ 6 ∧ o.toNat / 4096 ≠ 7 ∧
      (o.toNat / 4096 = 8 → o.toNat % 16 ∈ [0x8, 0x9, 0xA, 0xB, 0xC, 0xD, 0xF]) := by
  simp only [tableAlu, unmatched_cons, unmatched_nil, and_true, ne_eq,
    maskF000_eq_iff, maskF00F_eq_iff, BitVec.reduceToNat, List.mem_cons, List.not_mem_nil, or_false]
  omega

theorem unmatched_tableMixed (o : Word) : Unmatched o tableMixed ↔
    (o.toNat / 4096 = 9 → o.toNat % 16 ≠ 0) ∧ (o.toNat / 4096 ≤ 9 ∨ 14 ≤ o.toNat / 4096) ∧
      (o.toNat / 4096 = 14 → o.toNat % 256 ∉ [0x9E, 0xA1]) := by
  simp only [tableMixed, unmatched_cons, unmatched_nil, and_true, ne_eq,
    maskF000_eq_iff, maskF00F_eq_iff, maskF0FF_eq_iff, BitVec.reduceToNat, List.mem_cons, List.not_mem_nil, or_false]
  omega

theorem unmatched_tableF (o : Word) : Unmatched o tableF ↔
    (o.toNat / 4096 = 15 → o.toNat % 256 ∉ [0x07, 0x0A, 0x15, 0x18, 0x1E, 0x29, 0x33, 0x55, 0x65]) := by
  simp only [tableF, unmatched_cons, unmatched_nil, and_true, ne_eq,
    maskF0FF_eq_iff, BitVec.reduceToNat, List.mem_cons, List.not_mem_nil, or_false]
  omega

/-- Settles O5: what each part of the table leaves unmatched, taken together by the first nibble. -/
theorem illegalOpcodesAreExactlyThese : Obligations.IllegalOpcodesAreExactlyThese := by
  intro o
  have hword := o.isLt
  rw [decodeWord_eq_none_iff]
  simp only [table, unmatched_append, unmatched_tableControl, unmatched_tableAlu, unmatched_tableMixed,
    unmatched_tableF]
  constructor
  · rintro ⟨⟨⟨⟨hlow, h5⟩, h6, h7, h8⟩, h9, hmid, hE⟩, hF⟩
    obtain hop | hop | hop | hop | hop : o.toNat / 4096 = 5 ∨ o.toNat / 4096 = 8 ∨ o.toNat / 4096 = 9 ∨
        o.toNat / 4096 = 14 ∨ o.toNat / 4096 = 15 := by omega
    · exact .inl ⟨hop, h5 hop⟩
    · exact .inr (.inl ⟨hop, h8 hop⟩)
    · exact .inr (.inr (.inl ⟨hop, h9 hop⟩))
    · exact .inr (.inr (.inr (.inl ⟨hop, hE hop⟩)))
    · exact .inr (.inr (.inr (.inr ⟨hop, hF hop⟩)))
  · rintro (⟨hop, hrest⟩ | ⟨hop, hrest⟩ | ⟨hop, hrest⟩ | ⟨hop, hrest⟩ | ⟨hop, hrest⟩) <;> simp [hop, hrest]

/-! ### The halt of an undecodable word (R88, R221) -/

theorem runCycle_eq_raise_decodeError {s : State} {o : Word} (hfetch : fetch s = .ok o) (hdec : decodeWord o = none) :
    runCycle s = .next (s.raise .decodeError (some o) none) := by
  simp only [runCycle, hfetch, hdec]

/-- Settles O8: the fetch answers the word at `pc`, and the cycle raises. -/
theorem undecodableWordHalts : Obligations.UndecodableWordHalts := fun _ hevent hrun hpc hdec =>
  step_eq_of_runCycle hevent hrun (runCycle_eq_raise_decodeError (fetch_eq_ok_wordAtPc hpc) hdec)

end Sys2Proof

/-! SUPPORT. Control flow, equation by equation: where a transfer and a skip leave `pc` (40_control_flow.md rules R110,
R111), and what CALL and RET answer at each depth of the stack (R112, R115); with the statements about R112 to R120. -/

namespace Sys2Proof.Machine

/-! ### The transfer, the skip and the advance after them (R94, R95, R110, R111) -/

/-- A transfer to `w` and the advance after it leave exactly `w` in `pc`: the `- 2` of R111 cancels modulo 65536. -/
theorem State.endCycle_jumpTo (s : State) (w : Word) : (s.jumpTo w).endCycle = { s with pc := w } :=
  congrArg (fun pc => { s with pc := pc }) (BitVec.sub_add_cancel w 2)

/-- A skip and the advance after it: four bytes when the condition holds, two otherwise (R110). -/
theorem State.endCycle_skipIf (s : State) (c : Bool) :
    (s.skipIf c).endCycle = { s with pc := s.pc + if c then 4 else 2 } := by
  cases c with
  | false => rfl
  | true => exact congrArg (fun pc => { s with pc := pc }) (BitVec.add_assoc s.pc 2 2)

theorem State.unchangedBut_withPc (s : State) (pc : Word) : UnchangedBut s { s with pc := pc } (fun p => p = .pc) := by
  intro p hp
  cases p with
  | pc => exact absurd rfl hp
  | _ => rfl

theorem toNat_zextAddr (nnn : Addr12) : (zextAddr nnn).toNat = nnn.toNat :=
  BitVec.toNat_setWidth_of_le (by decide)

theorem toNat_zextByte (b : Byte) : (zextByte b).toNat = b.toNat := BitVec.toNat_setWidth_of_le (by decide)

/-! ### SYS and the jumps (R113, R114, R120) -/

/-- Settles O28: the whole instruction is the advance that ends its cycle. -/
theorem sysOnlyAdvances : Obligations.SysOnlyAdvances := fun _ s =>
  ⟨s.endCycle, rfl, BitVec.toNat_add s.pc 2, s.unchangedBut_withPc (s.pc + 2)⟩

/-- An instruction that transfers to `w` ends its cycle at `w`, and writes nothing else (R95, R111). -/
theorem exec_lands {i : Instr} {s : State} {w : Word} (hexec : exec i s = .next (s.jumpTo w).endCycle) :
    ∃ t, exec i s = .next t ∧ t.pc = w ∧ UnchangedBut s t (fun p => p = .pc) :=
  ⟨{ s with pc := w }, by rw [hexec, State.endCycle_jumpTo], rfl, s.unchangedBut_withPc w⟩

/-- Settles O29: the transfer lands on the zero-extended `nnn`. -/
theorem jumpLandsOnItsTarget : Obligations.JumpLandsOnItsTarget := by
  intro nnn s
  obtain ⟨t, hexec, hpc, hframe⟩ := exec_lands (i := .jp nnn) (s := s) rfl
  exact ⟨t, hexec, by rw [hpc, toNat_zextAddr], hframe⟩

/-- The target of `Bnnn` is the exact sum: 12 and 8 bits do not overflow 16 (R120). -/
theorem toNat_zextAddr_add_zextByte (nnn : Addr12) (b : Byte) :
    (zextAddr nnn + zextByte b).toNat = nnn.toNat + b.toNat := by
  have hnnn := nnn.isLt
  have hb := b.isLt
  rw [BitVec.toNat_add, toNat_zextAddr, toNat_zextByte]
  exact Nat.mod_eq_of_lt (by omega)

/-- Settles O35: the transfer lands on the exact sum, which is at most 0xFFF + 0xFF. -/
theorem jumpPlusV0IsNotReduced : Obligations.JumpPlusV0IsNotReduced := by
  intro nnn s
  obtain ⟨t, hexec, hpc, hframe⟩ := exec_lands (i := .jpV0 nnn) (s := s) rfl
  have htarget : t.pc.toNat = nnn.toNat + (s.getV 0).toNat := by rw [hpc, toNat_zextAddr_add_zextByte]
  have hnnn := nnn.isLt
  have hv0 := (s.getV 0).isLt
  exact ⟨t, hexec, htarget, by omega, hframe⟩

/-! ### The skips (R116 to R119) -/

/-- An instruction that skips on the condition `c` moves `pc` by 4 or by 2, and writes nothing else (R110). -/
theorem exec_skips {i : Instr} {s : State} {c : Bool} (hexec : exec i s = .next (s.skipIf c).endCycle) :
    ∃ t, exec i s = .next t ∧ t.pc.toNat = (s.pc.toNat + if c then 4 else 2) % 65536 ∧
      UnchangedBut s t (fun p => p = .pc) := by
  refine ⟨_, hexec.trans (congrArg _ (s.endCycle_skipIf c)), ?_, s.unchangedBut_withPc _⟩
  cases c <;> exact BitVec.toNat_add s.pc _

theorem exec_skips_of_eq {i : Instr} {s : State} {a b : Byte} (hexec : exec i s = .next (s.skipIf (a == b)).endCycle) :
    ∃ t, exec i s = .next t ∧ t.pc.toNat = (s.pc.toNat + if a = b then 4 else 2) % 65536 ∧
      UnchangedBut s t (fun p => p = .pc) := by
  simpa only [beq_iff_eq] using exec_skips hexec

theorem exec_skips_of_ne {i : Instr} {s : State} {a b : Byte} (hexec : exec i s = .next (s.skipIf (a != b)).endCycle) :
    ∃ t, exec i s = .next t ∧ t.pc.toNat = (s.pc.toNat + if a = b then 2 else 4) % 65536 ∧
      UnchangedBut s t (fun p => p = .pc) := by
  simpa only [bne_iff_ne, ne_eq, ite_not] using exec_skips hexec

/-- Settles O33: the two conditions are `Vx == kk` and `Vx != kk`. -/
theorem skipsCompareWithAnImmediate : Obligations.SkipsCompareWithAnImmediate := fun _ _ _ =>
  ⟨exec_skips_of_eq rfl, exec_skips_of_ne rfl⟩

/-- Settles O34: the two conditions are `Vx == Vy` and `Vx != Vy`. -/
theorem skipsCompareRegisters : Obligations.SkipsCompareRegisters := fun _ _ _ =>
  ⟨exec_skips_of_eq rfl, exec_skips_of_ne rfl⟩

/-! ### CALL and RET (R30 to R32, R112, R115) -/

/-- The state after a `2nnn` that finds room for its own address (R115). -/
def State.called (s : State) (nnn : Addr12) (hroom : s.sp.val < 16) : State :=
  { s with
    stack := s.stack.set s.sp.val s.pc hroom
    sp := ⟨s.sp.val + 1, Nat.succ_lt_succ hroom⟩
    pc := zextAddr nnn }

/-- The state after a `00EE` that finds an entry to pop (R112). -/
def State.returned (s : State) (h : s.sp.val - 1 < 16) : State :=
  { s with
    sp := ⟨s.sp.val - 1, Nat.lt_succ_of_lt h⟩
    pc := s.stack[s.sp.val - 1] + 2 }

/-- With room on the stack, a push succeeds (R30). -/
theorem State.push_of_lt {s : State} (w : Word) (hroom : s.sp.val < 16) : s.push w = some { s with
    stack := s.stack.set s.sp.val w hroom
    sp := ⟨s.sp.val + 1, Nat.succ_lt_succ hroom⟩ } := dif_pos hroom

/-- With an entry on the stack, a pop succeeds (R31). -/
theorem State.pop_of_pos {s : State} (hpos : 0 < s.sp.val) (h : s.sp.val - 1 < 16) :
    s.pop = some (s.stack[s.sp.val - 1], { s with sp := ⟨s.sp.val - 1, Nat.lt_succ_of_lt h⟩ }) := dif_pos hpos

theorem exec_call_of_lt {s : State} (nnn : Addr12) (hroom : s.sp.val < 16) :
    exec (.call nnn) s = .next (s.called nnn hroom) := by
  show execCall nnn s = _
  simp only [execCall, State.push_of_lt s.pc hroom, State.endCycle_jumpTo, State.called]

theorem exec_call_of_full {s : State} (nnn : Addr12) (hfull : s.sp = 16) :
    exec (.call nnn) s = .next (s.raise .stackOverflow (some (encode (.call nnn))) none) := by
  show execCall nnn s = _
  simp only [execCall, (State.push_eq_none_iff s s.pc).mpr hfull]

theorem exec_ret_of_pos {s : State} (hpos : 0 < s.sp.val) (h : s.sp.val - 1 < 16) :
    exec .ret s = .next (s.returned h) := by
  show execRet s = _
  simp only [execRet, State.pop_of_pos hpos h, State.returned, State.endCycle]

theorem exec_ret_of_empty {s : State} (hempty : s.sp = 0) :
    exec .ret s = .next (s.raise .stackUnderflow (some (encode .ret)) none) := by
  show execRet s = _
  simp only [execRet, (State.pop_eq_none_iff s).mpr hempty]

/-- A call writes `pc`, `sp`, and the entry that was the first free one (R30). -/
theorem State.called_unchangedBut (s : State) (nnn : Addr12) (hroom : s.sp.val < 16) :
    UnchangedBut s (s.called nnn hroom) (fun p => p = .pc ∨ p = .sp ∨ p = .stackEntry ⟨s.sp.val, hroom⟩) := by
  intro p hp
  cases p with
  | pc => exact absurd (.inl rfl) hp
  | sp => exact absurd (.inr (.inl rfl)) hp
  | stackEntry k =>
    have hne : s.sp.val ≠ k.val := fun hk => hp (.inr (.inr (congrArg Part.stackEntry (Fin.ext hk.symm))))
    exact Vector.getElem_set_ne hroom k.isLt hne
  | _ => rfl

/-- A return writes `pc` and `sp`: the popped entry stays (R31). -/
theorem State.returned_unchangedBut (s : State) (h : s.sp.val - 1 < 16) :
    UnchangedBut s (s.returned h) (fun p => p = .pc ∨ p = .sp) := by
  intro p hp
  cases p with
  | pc => exact absurd (.inl rfl) hp
  | sp => exact absurd (.inr rfl) hp
  | _ => rfl

/-- The word of `2nnn`, as a number (R83). -/
theorem encode_call (nnn : Addr12) : encode (.call nnn) = BitVec.ofNat 16 (0x2000 + nnn.toNat) := by
  have hnnn := nnn.isLt
  apply BitVec.eq_of_toNat_eq
  rw [BitVec.toNat_ofNat, Nat.mod_eq_of_lt (by omega)]
  exact toNat_word_nnn 2#4 nnn

/-- Settles O30: `sp` is below 16 and the call pushes, or it is 16 and the call raises. -/
theorem callPushesItsAddress : Obligations.CallPushesItsAddress := by
  refine fun nnn s => ⟨fun hroom => ?_, fun hfull => ?_⟩
  · exact ⟨s.called nnn hroom, exec_call_of_lt nnn hroom, toNat_zextAddr nnn, rfl, Vector.getElem_set_self hroom,
      s.called_unchangedBut nnn hroom⟩
  · rw [exec_call_of_full nnn (Fin.ext hfull), encode_call]
    rfl

/-- Settles O31: `sp` is above 0 and the return pops, or it is 0 and the return raises. -/
theorem returnPopsTheStack : Obligations.ReturnPopsTheStack := by
  refine fun s => ⟨fun hpos h => ?_, fun hempty => exec_ret_of_empty (Fin.ext hempty)⟩
  exact ⟨s.returned h, exec_ret_of_pos hpos h, BitVec.toNat_add _ 2, rfl, s.returned_unchangedBut h⟩

/-- Settles O32: the entry that the return pops is the one that the call pushed, its own address. -/
theorem returnResumesAfterTheCall : Obligations.ReturnResumesAfterTheCall := by
  intro nnn s t r hroom hcall hsp hstack
  obtain rfl : s.called nnn hroom = t := Host.Outcome.next.inj ((exec_call_of_lt nnn hroom).symm.trans hcall)
  have hval : r.sp.val = s.sp.val + 1 := congrArg Fin.val hsp
  have htopIdx : r.sp.val - 1 = s.sp.val := by omega
  have htop : r.stack[r.sp.val - 1] = s.pc := by
    simp only [hstack, htopIdx]
    exact Vector.getElem_set_self hroom
  have hpop : r.sp.val - 1 < 16 := htopIdx ▸ hroom
  have hpc : (r.returned hpop).pc = s.pc + 2 := congrArg (· + 2) htop
  have hresume : (r.returned hpop).pc.toNat = (s.pc.toNat + 2) % 65536 := by
    rw [hpc]
    exact BitVec.toNat_add s.pc 2
  exact ⟨r.returned hpop, exec_ret_of_pos (by omega) hpop, hresume, Fin.ext htopIdx⟩

end Sys2Proof.Machine

/-! SUPPORT. The register instructions (10_state.md rules R21 to R23; 41_alu.md rules R131 to R142): what a plain result and
a flagged one leave in the state, said once each, and the arithmetic of the results and flags; with the statements about
them. -/

namespace Sys2Proof.Machine

/-! ### A result without a flag (R23, R94) -/

/-- A register write and the advance after it change that register and `pc`, VF only where it is that register. -/
theorem State.endCycle_setV_unchangedBut (s : State) (x : RegIdx) (b : Byte) :
    UnchangedBut s (s.setV x b).endCycle (fun p => p = .v x ∨ p = .pc) := by
  intro p hp
  cases p with
  | v r => exact of_not_not fun hne => hp (.inl (congrArg Part.v (State.eq_of_getV_setV_ne hne)))
  | pc => exact absurd (.inr rfl) hp
  | _ => rfl

/-- An instruction that writes `b` to Vx and advances. -/
theorem exec_writes {i : Instr} {s : State} {x : RegIdx} {b : Byte} (hexec : exec i s = .next (s.setV x b).endCycle) :
    ∃ t, exec i s = .next t ∧ t.getV x = b ∧ t.pc.toNat = (s.pc.toNat + 2) % 65536 ∧
      UnchangedBut s t (fun p => p = .v x ∨ p = .pc) :=
  ⟨(s.setV x b).endCycle, hexec, (s.getV_setV x x b).trans (if_pos rfl), BitVec.toNat_add s.pc 2,
    s.endCycle_setV_unchangedBut x b⟩

/-- `exec_writes` for a byte that is given bit by bit. -/
theorem exec_writes_bits {i : Instr} {s : State} {x : RegIdx} {b : Byte} {bit : Nat → Bool}
    (hexec : exec i s = .next (s.setV x b).endCycle) (hbits : ∀ k < 8, b.getLsbD k = bit k) :
    ∃ t, exec i s = .next t ∧ (∀ k < 8, (t.getV x).getLsbD k = bit k) ∧ t.pc.toNat = (s.pc.toNat + 2) % 65536 ∧
      UnchangedBut s t (fun p => p = .v x ∨ p = .pc) := by
  obtain ⟨t, ht, hx, hrest⟩ := exec_writes hexec
  exact ⟨t, ht, hx ▸ hbits, hrest⟩

/-- Settles O36: the bytes written are kk and Vy. -/
theorem loadsCopyTheirOperand : Obligations.LoadsCopyTheirOperand := fun _ _ _ _ => ⟨exec_writes rfl, exec_writes rfl⟩

/-- Settles O37: the byte written is the sum of two bytes, which wraps. -/
theorem addImmediateWrapsWithoutFlag : Obligations.AddImmediateWrapsWithoutFlag := by
  intro x kk s
  obtain ⟨t, hexec, hx, hrest⟩ := exec_writes (i := .addImm x kk) (s := s) rfl
  exact ⟨t, hexec, by rw [hx, BitVec.toNat_add], hrest⟩

/-- Settles O38: the three operations on bytes, bit by bit. -/
theorem logicIsBitwiseAndSparesVF : Obligations.LogicIsBitwiseAndSparesVF := fun _ _ _ =>
  ⟨exec_writes_bits rfl fun _ _ => BitVec.getLsbD_or, exec_writes_bits rfl fun _ _ => BitVec.getLsbD_and,
    exec_writes_bits rfl fun _ _ => BitVec.getLsbD_xor⟩

/-- Settles O42: the byte written is the conjunction of the drawn byte and kk. -/
theorem randomByteIsMasked : Obligations.RandomByteIsMasked := fun _ _ _ =>
  exec_writes_bits rfl fun _ _ => BitVec.getLsbD_and

/-! ### A result and then its flag (R21, R22, R94) -/

/-- A flagged result and the advance after it change Vx, VF and `pc`. -/
theorem State.endCycle_setFlagged_unchangedBut (s : State) (x : RegIdx) (r : Byte × Bool) :
    UnchangedBut s (s.setFlagged x r).endCycle (fun p => p = .v x ∨ p = .v 0xF ∨ p = .pc) := by
  intro p hp
  cases p with
  | v q =>
    refine of_not_not fun hne => hp ?_
    obtain rfl | rfl := State.eq_of_getV_setFlagged_ne hne
    · exact .inl rfl
    · exact .inr (.inl rfl)
  | pc => exact absurd (.inr (.inr rfl)) hp
  | _ => rfl

/-- An instruction that writes a result to Vx, then its flag to VF, and advances: VF holds the flag even where x is F. -/
theorem exec_writesFlagged {i : Instr} {s : State} {x : RegIdx} {r : Byte × Bool}
    (hexec : exec i s = .next (s.setFlagged x r).endCycle) :
    ∃ t, exec i s = .next t ∧ t.getV 0xF = flagByte r.2 ∧ (x ≠ 0xF → t.getV x = r.1) ∧
      t.pc.toNat = (s.pc.toNat + 2) % 65536 ∧ UnchangedBut s t (fun p => p = .v x ∨ p = .v 0xF ∨ p = .pc) := by
  refine ⟨(s.setFlagged x r).endCycle, hexec, ?_, fun hx => ?_, BitVec.toNat_add s.pc 2,
    s.endCycle_setFlagged_unchangedBut x r⟩
  · rw [State.getV_endCycle, State.getV_setFlagged, if_pos rfl]
  · rw [State.getV_endCycle, State.getV_setFlagged, if_neg hx, if_pos rfl]

/-- `exec_writesFlagged` for a flag and a result that are given as numbers. -/
theorem exec_writesFlagged_toNat {i : Instr} {s : State} {x : RegIdx} {r : Byte × Bool} {flag result : Nat}
    (hexec : exec i s = .next (s.setFlagged x r).endCycle) (hflag : (flagByte r.2).toNat = flag)
    (hresult : r.1.toNat = result) :
    ∃ t, exec i s = .next t ∧ (t.getV 0xF).toNat = flag ∧ (x ≠ 0xF → (t.getV x).toNat = result) ∧
      t.pc.toNat = (s.pc.toNat + 2) % 65536 ∧ UnchangedBut s t (fun p => p = .v x ∨ p = .v 0xF ∨ p = .pc) := by
  obtain ⟨t, ht, hF, hx, hrest⟩ := exec_writesFlagged hexec
  exact ⟨t, ht, hF ▸ hflag, fun hne => hx hne ▸ hresult, hrest⟩

/-! ### The flags and results as numbers (R137 to R141) -/

theorem toNat_flagByte_decide (p : Prop) [Decidable p] : (flagByte (decide p)).toNat = if p then 1 else 0 := by
  by_cases hp : p <;> simp [flagByte, hp]

/-- A flag that is a bit of a byte. -/
theorem toNat_flagByte_getLsbD (b : Byte) (k : Nat) : (flagByte (b.getLsbD k)).toNat = b.toNat / 2 ^ k % 2 := by
  rw [← Nat.toNat_testBit, ← BitVec.getLsbD]
  cases b.getLsbD k <;> rfl

/-- The difference of two bytes is the integers' difference modulo 256. -/
theorem toNat_sub_byte (a b : Byte) : ((a - b).toNat : Int) = (a.toNat - b.toNat : Int) % 256 := by
  have ha := a.isLt
  have hb := b.isLt
  rw [BitVec.toNat_sub]
  omega

/-- Settles O39: the sum wraps, and the carry tells when. -/
theorem addReportsTheCarry : Obligations.AddReportsTheCarry := fun _ _ _ =>
  exec_writesFlagged_toNat rfl (toNat_flagByte_decide _) (BitVec.toNat_add _ _)

/-- An instruction whose flagged result is that of `a - b` (R138, R140). -/
theorem exec_subtracts {i : Instr} {s : State} {x : RegIdx} {a b : Byte}
    (hexec : exec i s = .next (s.setFlagged x (subBorrow a b)).endCycle) :
    ∃ t, exec i s = .next t ∧ (t.getV 0xF).toNat = (if a.toNat ≥ b.toNat then 1 else 0) ∧
      (x ≠ 0xF → ((t.getV x).toNat : Int) = (a.toNat - b.toNat : Int) % 256) ∧
      t.pc.toNat = (s.pc.toNat + 2) % 65536 ∧ UnchangedBut s t (fun p => p = .v x ∨ p = .v 0xF ∨ p = .pc) := by
  obtain ⟨t, ht, hF, hx, hrest⟩ := exec_writesFlagged hexec
  refine ⟨t, ht, ?_, fun hne => ?_, hrest⟩
  · rw [hF]
    exact toNat_flagByte_decide _
  · rw [hx hne]
    exact toNat_sub_byte a b

/-- Settles O40: `8xy5` is `Vx - Vy` and `8xy7` is `Vy - Vx`; no borrow is `≥`, and a borrow its negation. -/
theorem subtractReportsNotBorrow : Obligations.SubtractReportsNotBorrow := by
  intro x y s
  refine ⟨?_, exec_subtracts rfl⟩
  have hsub := exec_subtracts (i := .subReg x y) (s := s) rfl
  simpa only [ge_iff_le, ← not_lt, ite_not] using hsub

/-- `8xy6` loses the low bit: the shifted byte is half the old one, and the bit lost is the remainder. -/
theorem toNat_shiftRight (b : Byte) :
    (flagByte (shiftRight b).2).toNat = b.toNat % 2 ∧ (shiftRight b).1.toNat = b.toNat / 2 := by
  constructor
  · rw [shiftRight, toNat_flagByte_getLsbD, Nat.pow_zero, Nat.div_one]
  · rw [shiftRight, BitVec.toNat_ushiftRight, Nat.shiftRight_eq_div_pow, Nat.pow_one]

/-- `8xyE` loses the high bit: the shifted byte is twice the old one modulo 256, and the bit lost is its quotient. -/
theorem toNat_shiftLeft (b : Byte) :
    (flagByte (shiftLeft b).2).toNat = b.toNat / 128 ∧ (shiftLeft b).1.toNat = b.toNat * 2 % 256 := by
  have hb := b.isLt
  constructor
  · rw [shiftLeft, toNat_flagByte_getLsbD]
    omega
  · rw [shiftLeft, BitVec.toNat_shiftLeft, Nat.shiftLeft_eq, Nat.pow_one]

/-- Settles O41: both shifts take Vx, so y plays no part, and write the flag last. -/
theorem shiftsReportTheBitShiftedOut : Obligations.ShiftsReportTheBitShiftedOut := by
  intro x y s
  obtain ⟨hrightFlag, hright⟩ := toNat_shiftRight (s.getV x)
  obtain ⟨hleftFlag, hleft⟩ := toNat_shiftLeft (s.getV x)
  exact ⟨exec_writesFlagged_toNat rfl hrightFlag hright, exec_writesFlagged_toNat rfl hleftFlag hleft⟩

end Sys2Proof.Machine

/-! SUPPORT. The index register and the memory transfers: what setting I leaves in the state, what a bounds-checked transfer
answers on each side of the bound (20_memory.md rules R64 to R66; 42_index_memory.md rule R160), and what a store and a load
leave in memory and registers; with the statements about R161 to R166. -/

namespace Sys2Proof.Machine

/-! ### Setting I (R24, R161 to R163) -/

/-- Setting I and the advance after it change I and `pc`, no flag among them. -/
theorem State.endCycle_withI_unchangedBut (s : State) (w : Word) :
    UnchangedBut s { s with i := w }.endCycle (fun p => p = .i ∨ p = .pc) := by
  intro p hp
  cases p with
  | i => exact absurd (.inl rfl) hp
  | pc => exact absurd (.inr rfl) hp
  | _ => rfl

/-- An instruction that sets I to a word of value `n` and advances. -/
theorem exec_setsI {i : Instr} {s : State} {w : Word} {n : Nat} (hexec : exec i s = .next { s with i := w }.endCycle)
    (hw : w.toNat = n) :
    ∃ t, exec i s = .next t ∧ t.i.toNat = n ∧ t.pc.toNat = (s.pc.toNat + 2) % 65536 ∧
      UnchangedBut s t (fun p => p = .i ∨ p = .pc) :=
  ⟨{ s with i := w }.endCycle, hexec, hw, BitVec.toNat_add s.pc 2, s.endCycle_withI_unchangedBut w⟩

theorem toNat_add_zextByte (w : Word) (b : Byte) : (w + zextByte b).toNat = (w.toNat + b.toNat) % 65536 := by
  rw [BitVec.toNat_add, toNat_zextByte]

/-- The glyph's address is the exact product: 255 * 5 does not overflow 16 bits (R163). -/
theorem toNat_glyphAddress (b : Byte) : (glyphAddress b).toNat = b.toNat * 5 := by
  have hb := b.isLt
  rw [glyphAddress, BitVec.toNat_mul, toNat_zextByte]
  exact Nat.mod_eq_of_lt (show b.toNat * 5 < 65536 by omega)

/-- Settles O43: the words I takes are nnn, the wrapping sum, and the exact product. -/
theorem indexInstructionsSetI : Obligations.IndexInstructionsSetI := fun nnn _ _ =>
  ⟨exec_setsI rfl (toNat_zextAddr nnn), exec_setsI rfl (toNat_add_zextByte _ _), exec_setsI rfl (toNat_glyphAddress _)⟩

/-! ### The bounds check on each side of the bound (R64 to R66, R160) -/

/-- A transfer with all of its addresses in bounds acts. -/
theorem State.checkSpan_of_le {s : State} {len : Nat} (hin : s.i.toNat + len ≤ 4096) (i : Instr) (act : Result) :
    s.checkSpan i len act = act := by
  have hnone : spanFault s.i.toNat len = none := (spanFault_eq_none_iff _ _).mpr (.inr hin)
  simp only [State.checkSpan, hnone]

/-- A transfer with an address out of bounds raises, and does not act. -/
theorem State.checkSpan_of_gt {s : State} {len : Nat} (hpos : 0 < len) (hout : s.i.toNat + len > 4096) (i : Instr)
    (act : Result) :
    s.checkSpan i len act = .next (s.raise .outOfBounds (some (encode i)) (some (max s.i.toNat 4096))) := by
  have hsome : spanFault s.i.toNat len = some (max s.i.toNat 4096) := (spanFault_eq_some_iff _ _ _).mpr ⟨hpos, hout, rfl⟩
  simp only [State.checkSpan, hsome]

/-- The word of an instruction `Fx` and a byte, as a number (R83). -/
theorem word_F_eq_ofNat (x : RegIdx) (d : Byte) :
    (0xF#4 ++ x ++ d : Word) = BitVec.ofNat 16 (0xF000 + d.toNat + x.toNat * 256) := by
  have hx := x.isLt
  have hd := d.isLt
  apply BitVec.eq_of_toNat_eq
  rw [toNat_word_byte, BitVec.toNat_ofNat]
  simp only [BitVec.toNat_ofNat]
  omega

/-- A transfer of `len + 1` bytes that reaches past the last address of memory halts, with its own word in the record. -/
theorem exec_halts_of_gt {i : Instr} {s : State} {len : Nat} {act : Result} {x : RegIdx} {d : Byte}
    (hexec : exec i s = s.checkSpan i (len + 1) act) (hword : encode i = (0xF#4 ++ x ++ d : Word))
    (hout : s.i.toNat + len > 4095) :
    exec i s = .next { s with
      mode := .halted { kind := .outOfBounds, pc := s.pc,
                        opcode := some (BitVec.ofNat 16 (0xF000 + d.toNat + x.toNat * 256)),
                        addr := some (max s.i.toNat 4096) } } := by
  rw [hexec, State.checkSpan_of_gt (Nat.succ_pos len) (Nat.succ_lt_succ hout), hword, word_F_eq_ofNat]
  rfl

/-! ### Stores (R68, R77, R164, R165) -/

/-- A byte read after a store of several, at the place of one of them: that one. -/
theorem readByte_storeBytes_of_getElem? {m : Memory} {base k : Nat} {ws : List Byte} {b : Byte}
    (hin : base + ws.length ≤ 4096) (hb : ws[k]? = some b) :
    Memory.readByte (storeBytes m base ws) (base + k) = b := by
  rw [readByte_storeBytes m base ws _ hin, if_pos (Nat.le_add_right base k), Nat.add_sub_cancel_left, hb]
  rfl

/-- A store from I upward and the advance after it change `pc` and the bytes at the addresses stored to. -/
theorem State.endCycle_storeBytes_unchangedBut (s : State) (ws : List Byte) :
    UnchangedBut s { s with mem := storeBytes s.mem s.i.toNat ws }.endCycle
      (fun p => p = .pc ∨ ∃ k < ws.length, p = .byte (s.i.toNat + k)) := by
  intro p hp
  cases p with
  | byte a =>
    refine of_not_not fun hne => hp (.inr ?_)
    obtain ⟨hlow, hhigh⟩ := address_of_readByte_storeBytes_ne hne
    exact ⟨a - s.i.toNat, by omega, congrArg Part.byte (by omega)⟩
  | pc => exact absurd (.inl rfl) hp
  | _ => rfl

/-- An instruction that stores bytes from I upward, with all of their addresses in bounds. -/
theorem exec_stores {i : Instr} {s : State} {ws : List Byte} {len : Nat} (hlen : ws.length = len)
    (hexec : exec i s = s.checkSpan i len (.next { s with mem := storeBytes s.mem s.i.toNat ws }.endCycle))
    (hin : s.i.toNat + len ≤ 4096) :
    ∃ t, exec i s = .next t ∧ (∀ k b, ws[k]? = some b → t.mem.readByte (s.i.toNat + k) = b) ∧
      t.pc.toNat = (s.pc.toNat + 2) % 65536 ∧
      UnchangedBut s t (fun p => p = .pc ∨ ∃ k < len, p = .byte (s.i.toNat + k)) := by
  subst hlen
  exact ⟨_, hexec.trans (State.checkSpan_of_le hin i _), fun _ _ => readByte_storeBytes_of_getElem? hin,
    BitVec.toNat_add s.pc 2, s.endCycle_storeBytes_unchangedBut ws⟩

/-- The digits of a byte as numbers: each is below 10, and fits a byte. -/
theorem toNat_digits (b : Byte) :
    (BitVec.ofNat 8 (b.toNat / 100)).toNat = b.toNat / 100 ∧
      (BitVec.ofNat 8 (b.toNat / 10 % 10)).toNat = b.toNat / 10 % 10 ∧
      (BitVec.ofNat 8 (b.toNat % 10)).toNat = b.toNat % 10 := by
  have hb := b.isLt
  simp only [BitVec.toNat_ofNat]
  omega

/-- Settles O44: the three bytes stored are the digits, hundreds first, and the last of them goes to I + 2. -/
theorem decimalDigitsAreStored : Obligations.DecimalDigitsAreStored := by
  refine fun x s => ⟨fun hin => ?_, exec_halts_of_gt (d := 0x33) rfl rfl⟩
  obtain ⟨t, hexec, hbytes, hpc, hframe⟩ :=
    exec_stores (i := .ldB x) (ws := decimalDigits (s.getV x)) rfl rfl (Nat.succ_le_succ hin)
  obtain ⟨hhundreds, htens, hones⟩ := toNat_digits (s.getV x)
  refine ⟨t, hexec, ?_, ?_, ?_, hpc, hframe⟩
  · exact (congrArg BitVec.toNat (hbytes 0 _ rfl)).trans hhundreds
  · exact (congrArg BitVec.toNat (hbytes 1 _ rfl)).trans htens
  · exact (congrArg BitVec.toNat (hbytes 2 _ rfl)).trans hones

/-- Among the bytes of V0 to Vx, the one at place r is Vr. -/
theorem State.lowRegs_getElem? {x r : RegIdx} (hr : r.toNat ≤ x.toNat) (s : State) :
    (s.lowRegs x)[r.toNat]? = some (s.getV r) := by
  have hlt : r.toNat < regCount x := Nat.lt_succ_of_le hr
  rw [State.lowRegs, List.getElem?_take_of_lt hlt, Vector.getElem?_toList]
  exact Vector.getElem?_eq_getElem r.isLt

/-- Settles O45: the bytes stored are those of V0 to Vx, and the last of them goes to I + x. -/
theorem registersAreStored : Obligations.RegistersAreStored := by
  refine fun x s => ⟨fun hin => ?_, exec_halts_of_gt (d := 0x55) rfl rfl⟩
  obtain ⟨t, hexec, hbytes, hpc, hframe⟩ :=
    exec_stores (i := .storeRegs x) (s.lowRegs_length x) rfl (Nat.succ_le_succ hin)
  refine ⟨t, hexec, fun r hr => hbytes _ _ (s.lowRegs_getElem? hr), hpc, ?_⟩
  simpa only [Nat.lt_succ_iff] using hframe

/-! ### Loads (R166) -/

/-- Loading V0 to Vx from I upward and the advance after it change `pc` and those registers. -/
theorem State.endCycle_loadBytes_unchangedBut (s : State) (x : RegIdx) :
    UnchangedBut s { s with v := loadBytes s.v 0 (readBytes s.mem s.i.toNat (regCount x)) }.endCycle
      (fun p => p = .pc ∨ ∃ r : RegIdx, r.toNat ≤ x.toNat ∧ p = .v r) := by
  intro p hp
  cases p with
  | v r =>
    have hr : ¬ r.toNat < regCount x := fun hlt => hp (.inr ⟨r, Nat.le_of_lt_succ hlt, rfl⟩)
    exact (s.getV_loadBytes_readBytes _ _ r).trans (if_neg hr)
  | pc => exact absurd (.inl rfl) hp
  | _ => rfl

/-- Settles O46: each register up to Vx takes the byte at its place, and the last of them comes from I + x. -/
theorem registersAreLoaded : Obligations.RegistersAreLoaded := by
  refine fun x s => ⟨fun hin => ?_, exec_halts_of_gt (d := 0x65) rfl rfl⟩
  refine ⟨_, State.checkSpan_of_le (Nat.succ_le_succ hin) (.loadRegs x) _, fun r hr => ?_, BitVec.toNat_add s.pc 2,
    s.endCycle_loadBytes_unchangedBut x⟩
  exact (s.getV_loadBytes_readBytes _ _ r).trans (if_pos (Nat.lt_succ_of_le hr))

end Sys2Proof.Machine

/-! SUPPORT. The display: what clearing leaves in the state, and the blit as the XOR of a set of pixels, bit by bit, row by
row, and for the whole sprite (43_display.md rules R181 to R185). -/

namespace Sys2Proof.Machine

/-! ### Clearing (R181, R185) -/

/-- Presenting another buffer and the advance after it change pixels, the strobe count and `pc`, no flag among them. -/
theorem State.endCycle_present_withFb_unchangedBut (s : State) (fb : Framebuffer) :
    UnchangedBut s { s with fb := fb }.present.endCycle (fun p => p = .pc ∨ p = .presents ∨ ∃ l, p = .pixel l) := by
  intro p hp
  cases p with
  | pc => exact absurd (.inl rfl) hp
  | presents => exact absurd (.inr (.inl rfl)) hp
  | pixel l => exact absurd (.inr (.inr ⟨l, rfl⟩)) hp
  | _ => rfl

/-- Settles O48: the buffer presented is the cleared surface. -/
theorem clearPutsOutEveryPixel : Obligations.ClearPutsOutEveryPixel := by
  intro s
  refine ⟨{ s with fb := clearedSurface }.present.endCycle, rfl, fun l => ?_, rfl, BitVec.toNat_add s.pc 2,
    s.endCycle_present_withFb_unchangedBut clearedSurface⟩
  exact pixel_clearedSurface l.val

/-! ### XORing a set of pixels into the buffer (R182, R183) -/

/-- Off the buffer nothing is lit. -/
theorem lt_of_pixel {fb : Framebuffer} {l : Nat} (h : pixel fb l = true) : l < 2048 := by
  by_contra hge
  have hrow : ¬ l / 64 < 32 := by omega
  simp [pixel, hrow] at h

/-- From one point of a blit to a later one, each pixel of `lit` was flipped and no other pixel, and a collision was reported
when one of them had been lit. -/
structure XorsIn (lit : Nat → Prop) (acc acc' : Framebuffer × Bool) : Prop where
  pixel_iff : ∀ l, pixel acc'.1 l = true ↔ Xor (pixel acc.1 l = true) (lit l)
  collided_iff : acc'.2 = true ↔ acc.2 = true ∨ ∃ l, pixel acc.1 l = true ∧ lit l

theorem XorsIn.refl {lit : Nat → Prop} (hnone : ∀ l, ¬ lit l) (acc : Framebuffer × Bool) : XorsIn lit acc acc where
  pixel_iff l := by simp [hnone l, Xor]
  collided_iff := by simp [hnone]

/-- Two parts of a blit that reach no common pixel: no pixel is flipped back, and the second part finds its pixels as they
were before the first (R183). -/
theorem XorsIn.trans {lit lit₁ lit₂ : Nat → Prop} {acc acc₁ acc₂ : Framebuffer × Bool} (h₁ : XorsIn lit₁ acc acc₁)
    (h₂ : XorsIn lit₂ acc₁ acc₂) (hlit : ∀ l, lit l ↔ lit₁ l ∨ lit₂ l) (hdisj : ∀ l, lit₁ l → ¬ lit₂ l) :
    XorsIn lit acc acc₂ where
  pixel_iff l := by
    have := hdisj l
    rw [h₂.pixel_iff, h₁.pixel_iff, hlit]
    unfold Xor
    tauto
  collided_iff := by
    have hsame : ∀ l, pixel acc₁.1 l = true ∧ lit₂ l ↔ pixel acc.1 l = true ∧ lit₂ l := by
      intro l
      have := hdisj l
      rw [h₁.pixel_iff]
      unfold Xor
      tauto
    simp only [h₂.collided_iff, h₁.collided_iff, hsame, hlit, and_or_left, exists_or, or_assoc]

/-- The pixels that were lit and flipped are those that went out. -/
theorem XorsIn.erased_iff {lit : Nat → Prop} {acc acc' : Framebuffer × Bool} (h : XorsIn lit acc acc') (l : Nat) :
    pixel acc.1 l = true ∧ pixel acc'.1 l = false ↔ pixel acc.1 l = true ∧ lit l := by
  rw [← Bool.not_eq_true, h.pixel_iff]
  unfold Xor
  tauto

/-! ### The pixels of a bit, a row and a sprite (R182) -/

/-- Bit `b` of a sprite row is 1, and has the pixel of linear index `l` as its destination. -/
def BitLights (edge : EdgePolicy) (row : Byte) (ox r b l : Nat) : Prop :=
  spriteBit row b = true ∧ dest edge (ox + b) r = some l

/-- One of the bits `b, b+1, …` (`count` of them) of a sprite row lights the pixel. -/
def RowLights (edge : EdgePolicy) (row : Byte) (ox r b count l : Nat) : Prop :=
  ∃ k ∈ List.range' b count, BitLights edge row ox r k l

theorem not_rowLights_zero (edge : EdgePolicy) (row : Byte) (ox r b l : Nat) : ¬ RowLights edge row ox r b 0 l := by
  simp [RowLights]

theorem rowLights_succ (edge : EdgePolicy) (row : Byte) (ox r b count l : Nat) :
    RowLights edge row ox r b (count + 1) l ↔
      BitLights edge row ox r b l ∨ RowLights edge row ox r (b + 1) count l := by
  simp only [RowLights, List.range'_succ, List.exists_mem_cons_iff]

/-- Bit `b` from the left is the bit of weight `2 ^ (7 - b)`. -/
theorem spriteBit_iff {b : Nat} (hb : b < 8) (row : Byte) : spriteBit row b = true ↔ row.toNat / 2 ^ (7 - b) % 2 = 1 := by
  simp [spriteBit, BitVec.getMsbD, BitVec.getLsbD, Nat.testBit_eq_decide_div_mod_eq, hb]

/-- A sprite lights the pixels of its rows. -/
theorem spriteLights_iff (edge : EdgePolicy) (sprite : List Byte) (ox oy l : Nat) :
    SpriteLights edge sprite ox oy l ↔ ∃ r row, sprite[r]? = some row ∧ RowLights edge row ox (oy + r) 0 8 l := by
  constructor
  · rintro ⟨r, b, row, hrow, hb, hbit, hdest⟩
    exact ⟨r, row, hrow, b, List.mem_range'_1.mpr ⟨Nat.zero_le b, hb⟩, (spriteBit_iff hb row).mpr hbit, hdest⟩
  · rintro ⟨r, row, hrow, b, hb, hbit, hdest⟩
    obtain ⟨-, hb⟩ := List.mem_range'_1.mp hb
    exact ⟨r, b, row, hrow, hb, (spriteBit_iff hb row).mp hbit, hdest⟩

theorem not_spriteLights_nil (edge : EdgePolicy) (ox oy l : Nat) : ¬ SpriteLights edge [] ox oy l := by
  simp [SpriteLights]

theorem spriteLights_cons (edge : EdgePolicy) (row : Byte) (rest : List Byte) (ox oy l : Nat) :
    SpriteLights edge (row :: rest) ox oy l ↔
      RowLights edge row ox oy 0 8 l ∨ SpriteLights edge rest ox (oy + 1) l := by
  rw [spriteLights_iff, spriteLights_iff, ← Nat.or_exists_add_one]
  simp [Nat.add_right_comm, ← Nat.add_assoc]

/-! ### The blit, bit by bit and row by row (R182) -/

theorem xorsIn_plotBit (edge : EdgePolicy) (row : Byte) (ox r b : Nat) (acc : Framebuffer × Bool) :
    XorsIn (BitLights edge row ox r b) acc (plotBit edge (ox + b) r (spriteBit row b) acc) where
  pixel_iff l := by
    rw [pixel_plotBit, BitLights]
    cases pixel acc.1 l <;> cases spriteBit row b <;> simp [Xor]
  collided_iff := by
    rw [collided_plotBit]
    simp only [BitLights]
    tauto

/-- Bit `b` of a row reaches no pixel that a later bit of the row reaches. -/
theorem not_rowLights_of_bitLights {edge : EdgePolicy} {row : Byte} {ox r b count l : Nat} (hb : b + count < 8)
    (h : BitLights edge row ox r b l) : ¬ RowLights edge row ox r (b + 1) count l := by
  rintro ⟨k, hk, -, hdest'⟩
  obtain ⟨-, hdest⟩ := h
  obtain ⟨hle, hlt⟩ := List.mem_range'_1.mp hk
  obtain ⟨rfl, -⟩ := dest_injective (oy := r) (r := 0) (r' := 0) (by omega) (by omega) (by decide) (by decide) hdest
    hdest'
  exact absurd hle (Nat.not_succ_le_self b)

theorem xorsIn_blitBits (edge : EdgePolicy) (row : Byte) (ox r b count : Nat) (hcount : b + count ≤ 8)
    (acc : Framebuffer × Bool) : XorsIn (RowLights edge row ox r b count) acc (blitBits edge row ox r b count acc) := by
  induction count generalizing b acc with
  | zero => exact .refl (not_rowLights_zero edge row ox r b) acc
  | succ count ih =>
    exact (xorsIn_plotBit edge row ox r b acc).trans (ih (b + 1) (by omega) _) (rowLights_succ edge row ox r b count)
      fun _ => not_rowLights_of_bitLights hcount

/-- A row reaches no pixel that a sprite below it reaches. -/
theorem not_spriteLights_of_rowLights {edge : EdgePolicy} {row : Byte} {rest : List Byte} {ox oy l : Nat}
    (hlen : rest.length < 16) (h : RowLights edge row ox oy 0 8 l) : ¬ SpriteLights edge rest ox (oy + 1) l := by
  rintro ⟨r, b', row', hrow', hb', -, hdest'⟩
  obtain ⟨b, hb, -, hdest⟩ := h
  obtain ⟨-, hb⟩ := List.mem_range'_1.mp hb
  obtain ⟨hr, -⟩ := List.getElem?_eq_some_iff.mp hrow'
  rw [Nat.add_assoc] at hdest'
  obtain ⟨-, hrows⟩ := dest_injective (r := 0) (r' := 1 + r) hb hb' (by decide) (by omega) hdest hdest'
  omega

theorem xorsIn_blitRows (edge : EdgePolicy) (sprite : List Byte) (ox oy : Nat) (hlen : sprite.length ≤ 16)
    (acc : Framebuffer × Bool) : XorsIn (SpriteLights edge sprite ox oy) acc (blitRows edge ox oy sprite acc) := by
  induction sprite generalizing oy acc with
  | nil => exact .refl (not_spriteLights_nil edge ox oy) acc
  | cons row rest ih =>
    exact (xorsIn_blitBits edge row ox oy 0 8 (Nat.le_refl 8) acc).trans (ih (oy + 1) (Nat.le_of_lt hlen) _)
      (spriteLights_cons edge row rest ox oy) fun _ => not_spriteLights_of_rowLights hlen

/-- Settles O49: the rows XOR in the sprite's pixels, and those of them that were lit are the erasures. -/
theorem blitIsTheXorOfTheSprite : Obligations.BlitIsTheXorOfTheSprite := by
  intro edge fb sprite ox oy hlen _ _
  have hblit : XorsIn (SpriteLights edge sprite ox oy) (fb, false) (blit edge fb sprite ox oy) :=
    xorsIn_blitRows edge sprite ox oy (Nat.le_succ_of_le hlen) (fb, false)
  refine ⟨fun l => hblit.pixel_iff l, ?_⟩
  calc (blit edge fb sprite ox oy).2 = true
    _ ↔ ∃ l, pixel fb l = true ∧ SpriteLights edge sprite ox oy l := by simp [hblit.collided_iff]
    _ ↔ ∃ l, pixel fb l = true ∧ pixel (blit edge fb sprite ox oy).1 l = false :=
      exists_congr fun l => (hblit.erased_iff l).symm
    _ ↔ ∃ l : Fin 2048, pixel fb l.val = true ∧ pixel (blit edge fb sprite ox oy).1 l.val = false :=
      ⟨fun ⟨l, hlit, hout⟩ => ⟨⟨l, lt_of_pixel hlit⟩, hlit, hout⟩, fun ⟨l, h⟩ => ⟨l.val, h⟩⟩

end Sys2Proof.Machine

/-! SUPPORT. The timer and key instructions (44_timers_keys.md rules R200 to R206): when a byte names a key that is down, and
what setting a timer leaves in the state; with the statements about Ex9E, ExA1, Fx07, Fx15 and Fx18. -/

namespace Sys2Proof.Machine

/-! ### The key skips (R200 to R202) -/

theorem State.keyIsDown_iff (s : State) (key : Byte) :
    s.keyIsDown key = true ↔ key.toNat ≤ 15 ∧ s.inputs.keyDown.getLsbD key.toNat = true := by
  rw [State.keyIsDown, Bool.and_eq_true, decide_eq_true_iff]

/-- Settles O54: the two conditions are that the key Vx names is down, and its negation. -/
theorem keySkipsFollowTheKeyLines : Obligations.KeySkipsFollowTheKeyLines := by
  intro x s
  have hskp := exec_skips (i := .skp x) (s := s) rfl
  have hsknp := exec_skips (i := .sknp x) (s := s) rfl
  simp only [Bool.not_eq_true', ← Bool.not_eq_true, ite_not, State.keyIsDown_iff] at hskp hsknp
  exact ⟨hskp, hsknp⟩

/-! ### The timers (R203, R205, R206) -/

/-- Setting DT and the advance after it change DT and `pc`. -/
theorem State.endCycle_withDt_unchangedBut (s : State) (b : Byte) :
    UnchangedBut s { s with dt := b }.endCycle (fun p => p = .dt ∨ p = .pc) := by
  intro p hp
  cases p with
  | dt => exact absurd (.inl rfl) hp
  | pc => exact absurd (.inr rfl) hp
  | _ => rfl

/-- Setting ST and the advance after it change ST and `pc`. -/
theorem State.endCycle_withSt_unchangedBut (s : State) (b : Byte) :
    UnchangedBut s { s with st := b }.endCycle (fun p => p = .st ∨ p = .pc) := by
  intro p hp
  cases p with
  | st => exact absurd (.inl rfl) hp
  | pc => exact absurd (.inr rfl) hp
  | _ => rfl

/-- Settles O55: `Fx07` is a register write of DT, and the other two set one timer to Vx. -/
theorem timerInstructionsMoveBytes : Obligations.TimerInstructionsMoveBytes := by
  intro x s
  have hpc : (s.pc + 2).toNat = (s.pc.toNat + 2) % 65536 := BitVec.toNat_add s.pc 2
  refine ⟨exec_writes rfl, ?delay, ?sound⟩
  case delay =>
    exact ⟨{ s with dt := s.getV x }.endCycle, rfl, rfl, hpc, s.endCycle_withDt_unchangedBut (s.getV x)⟩
  case sound =>
    exact ⟨{ s with st := s.getV x }.endCycle, rfl, rfl, hpc, s.endCycle_withSt_unchangedBut (s.getV x)⟩

end Sys2Proof.Machine

/-! SUPPORT. Ticks in a row (60_exceptions.md rules R229, R231, R233, R235). -/

namespace Sys2Proof.Machine

/-! ### One tick (R231, R233, R234) -/

theorem tick_of_halted {s : State} {e : ErrorRecord} (hhalt : s.mode = .halted e) : tick s = s := by
  simp only [tick, hhalt]

/-- Running or waiting, a tick lowers the two timers and nothing else. -/
theorem tick_of_not_halted {s : State} (hlive : ∀ e, s.mode ≠ .halted e) :
    tick s = { s with dt := decay s.dt, st := decay s.st } := by
  unfold tick
  cases hmode : s.mode with
  | halted e => exact absurd hmode (hlive e)
  | awaitingKey x => rfl
  | running => rfl

/-- A timer that decays loses one, stopping at 0: natural subtraction. -/
theorem toNat_decay (b : Byte) : (decay b).toNat = b.toNat - 1 := by
  unfold decay
  split
  next hzero =>
    rw [hzero]
    rfl
  next hpos => bv_omega

/-! ### Many ticks (R231, R235) -/

theorem toNat_iterate_decay (n : Nat) (b : Byte) : (decay^[n] b).toNat = b.toNat - n := by
  induction n generalizing b with
  | zero => rfl
  | succ n ih => rw [Function.iterate_succ_apply, ih, toNat_decay, Nat.sub_sub, Nat.add_comm 1 n]

/-- The state after `n` ticks of a machine that is not halted: each timer decays `n` times. -/
def State.ticked (n : Nat) (s : State) : State := { s with dt := decay^[n] s.dt, st := decay^[n] s.st }

theorem runEvents_ticks (n : Nat) {s : State} (hlive : ∀ e, s.mode ≠ .halted e) :
    runEvents (List.replicate n .tick) s = .next (s.ticked n) := by
  induction n generalizing s with
  | zero => rfl
  | succ n ih =>
    calc runEvents (List.replicate (n + 1) .tick) s
      _ = runEvents (List.replicate n .tick) (tick s) := rfl
      _ = runEvents (List.replicate n .tick) (s.ticked 1) := by rw [tick_of_not_halted hlive]; rfl
      _ = .next (s.ticked (n + 1)) := ih (s := s.ticked 1) hlive

theorem State.ticked_unchangedBut (n : Nat) (s : State) : UnchangedBut s (s.ticked n) (fun p => p = .dt ∨ p = .st) := by
  intro p hp
  cases p with
  | dt => exact absurd (.inl rfl) hp
  | st => exact absurd (.inr rfl) hp
  | _ => rfl

/-- Settles O13: each timer decays once a tick, and `n` decays subtract `n` as naturals do. -/
theorem ticksCountDownToZero : Obligations.TicksCountDownToZero := fun n s hlive =>
  ⟨s.ticked n, runEvents_ticks n hlive, toNat_iterate_decay n s.dt, toNat_iterate_decay n s.st, s.ticked_unchangedBut n⟩

end Sys2Proof.Machine

/-! SUPPORT. The invariant of every step (10_state.md rules R28, R32; 60_exceptions.md rules R221 to R225): the records that
the raises write, where an instruction leaves `pc`, the stack and the memory, and each of the three events. -/

namespace Sys2Proof.Machine

/-! ### The error records (R221 to R225) -/

/-- The instructions that access data are those with a span of memory to access. -/
theorem accessesData_of_dataSpan_pos {i : Instr} (hpos : 0 < dataSpan i) : accessesData i = true := by
  cases i with
  | drw x y n => exact decide_eq_true hpos
  | ldB | storeRegs | loadRegs => rfl
  | _ => exact absurd hpos (Nat.lt_irrefl 0)

/-- An instruction that was fetched and decoded leaves a record that the rules allow, whichever error it raises. -/
theorem Raises.record_wf {s : State} {i : Instr} {k : ErrorKind} {a : Option Nat} (hraise : Raises s i k a) {pc : Word}
    (hpc : pc.toNat ≤ 4094) (hdec : decodeWord (encode i) = some i) :
    ErrorRecord.wf { kind := k, pc := pc, opcode := some (encode i), addr := a } = true := by
  simp only [ErrorRecord.wf, decide_eq_true hpc, Bool.true_and]
  cases hraise with
  | underflow hsp => rfl
  | overflow nnn hsp =>
    have hop : (encode (.call nnn)).toNat / 4096 = 2 := by
      have hword : (encode (.call nnn)).toNat = 2 * 4096 + nnn.toNat := toNat_word_nnn 2#4 nnn
      have hnnn := nnn.isLt
      omega
    simp only [hop, decide_true, Option.isNone_none, Bool.and_self]
  | span _ hpos hout =>
    simp only [hdec, Option.any_some, accessesData_of_dataSpan_pos hpos, Bool.true_and]
    exact decide_eq_true (Nat.le_max_right _ _)

/-- A fetch out of bounds leaves a record that the rules allow (R93). -/
theorem fetch_error_record_wf {s : State} {a : Nat} (hfetch : fetch s = .error a) :
    ErrorRecord.wf { kind := .outOfBounds, pc := s.pc, opcode := none, addr := some a } = true := by
  obtain ⟨hpc, h⟩ | ⟨hpc, h⟩ | ⟨-, h⟩ := fetch_cases s
  · obtain rfl := Except.error.inj (h.symm.trans hfetch)
    exact decide_eq_true ⟨rfl, Nat.lt_of_succ_lt hpc, congrArg some (Nat.max_eq_left hpc).symm⟩
  · obtain rfl := Except.error.inj (h.symm.trans hfetch)
    simp only [ErrorRecord.wf, hpc]
    decide
  · exact nomatch h.symm.trans hfetch

/-- A fetch that succeeds was made at 4094 or below (R93). -/
theorem pc_le_of_fetch_ok {s : State} {o : Word} (hfetch : fetch s = .ok o) : s.pc.toNat ≤ 4094 := by
  obtain ⟨-, h⟩ | ⟨-, h⟩ | ⟨hpc, -⟩ := fetch_cases s
  · exact nomatch h.symm.trans hfetch
  · exact nomatch h.symm.trans hfetch
  · exact Nat.le_of_lt_succ hpc

theorem decodeError_record_wf {o pc : Word} (hpc : pc.toNat ≤ 4094) (hdec : decodeWord o = none) :
    ErrorRecord.wf { kind := .decodeError, pc := pc, opcode := some o, addr := none } = true := by
  simp only [ErrorRecord.wf, decide_eq_true hpc, hdec, Option.isNone_none, Bool.and_self]

/-! ### Where an instruction leaves `pc` (R28, R95, R110 to R120) -/

theorem exec_call_cases (nnn : Addr12) (s : State) :
    (∃ hroom : s.sp.val < 16, exec (.call nnn) s = .next (s.called nnn hroom)) ∨
      exec (.call nnn) s = .next (s.raise .stackOverflow (some (encode (.call nnn))) none) := by
  by_cases hroom : s.sp.val < 16
  · exact .inl ⟨hroom, exec_call_of_lt nnn hroom⟩
  · have hfull : s.sp = 16 := Fin.ext (Nat.le_antisymm (Nat.le_of_lt_succ s.sp.isLt) (Nat.le_of_not_lt hroom))
    exact .inr (exec_call_of_full nnn hfull)

theorem exec_ret_cases (s : State) :
    (∃ h : s.sp.val - 1 < 16, exec .ret s = .next (s.returned h)) ∨
      exec .ret s = .next (s.raise .stackUnderflow (some (encode .ret)) none) := by
  have hsp := s.sp.isLt
  by_cases hpos : 0 < s.sp.val
  · exact .inl ⟨by omega, exec_ret_of_pos hpos (by omega)⟩
  · exact .inr (exec_ret_of_empty (Fin.ext (Nat.eq_zero_of_not_pos hpos)))

/-- An instruction executed in `s` can leave this word in `pc`. -/
inductive NextPc (s : State) : Word → Prop where
  /-- A raise (R220). -/
  | stays : NextPc s s.pc
  /-- The universal advance (R94). -/
  | advances : NextPc s (s.pc + 2)
  /-- A skip (R110). -/
  | skips (c : Bool) : NextPc s (s.pc + if c then 4 else 2)
  /-- `1nnn` and `2nnn` (R114, R115). -/
  | jumps (nnn : Addr12) : NextPc s (zextAddr nnn)
  /-- `Bnnn` (R120). -/
  | jumpsPlus (nnn : Addr12) (b : Byte) : NextPc s (zextAddr nnn + zextByte b)
  /-- `00EE`: past the instruction whose address was popped (R112). -/
  | returns (k : Fin 16) : NextPc s (s.stack[k.val] + 2)

/-- A bounds-checked transfer leaves `pc` where the transfer does, or raises. -/
theorem NextPc.of_checkSpan {s u t : State} {i : Instr} {len : Nat} (hu : NextPc s u.pc)
    (h : s.checkSpan i len (.next u) = .next t) : NextPc s t.pc := by
  obtain ⟨-, hact⟩ | ⟨-, hraise⟩ := s.checkSpan_cases i len (.next u)
  · obtain rfl := Host.Outcome.next.inj (hact.symm.trans h)
    exact hu
  · obtain rfl := Host.Outcome.next.inj (hraise.symm.trans h)
    exact .stays

/-- What an instruction leaves in `pc` is one of the words that `NextPc` lists. -/
theorem NextPc.of_exec {i : Instr} {s t : State} (h : exec i s = .next t) : NextPc s t.pc := by
  cases i with
  | ret =>
    obtain ⟨hk, hpop⟩ | hraise := exec_ret_cases s
    · obtain rfl := Host.Outcome.next.inj (hpop.symm.trans h)
      exact .returns ⟨s.sp.val - 1, hk⟩
    · obtain rfl := Host.Outcome.next.inj (hraise.symm.trans h)
      exact .stays
  | call nnn =>
    obtain ⟨hroom, hpush⟩ | hraise := exec_call_cases nnn s
    · obtain rfl := Host.Outcome.next.inj (hpush.symm.trans h)
      exact .jumps nnn
    · obtain rfl := Host.Outcome.next.inj (hraise.symm.trans h)
      exact .stays
  | drw x y n => exact .of_checkSpan (i := .drw x y n) .advances h
  | ldB x => exact .of_checkSpan (i := .ldB x) .advances h
  | storeRegs x => exact .of_checkSpan (i := .storeRegs x) .advances h
  | loadRegs x => exact .of_checkSpan (i := .loadRegs x) .advances h
  | jp nnn =>
    cases h
    exact State.endCycle_jumpTo s _ ▸ .jumps nnn
  | jpV0 nnn =>
    cases h
    exact State.endCycle_jumpTo s _ ▸ .jumpsPlus nnn (s.getV 0)
  | seImm | sneImm | seReg | sneReg | skp | sknp =>
    cases h
    exact State.endCycle_skipIf s _ ▸ .skips _
  | _ =>
    cases h
    exact .advances

/-- From an address that can be fetched from, with such addresses on the stack, `pc` comes to 0x10FE at most: the sum of the
largest address and the largest byte, which `Bnnn` adds (R28). -/
theorem NextPc.le {s : State} {w : Word} (h : NextPc s w) (hpc : s.pc.toNat ≤ 4094)
    (hstack : ∀ k : Fin 16, (s.stack[k.val]).toNat ≤ 4094) : w.toNat ≤ 0x10FE := by
  cases h with
  | stays => omega
  | advances => bv_omega
  | skips c => split <;> bv_omega
  | jumps nnn =>
    have hnnn := nnn.isLt
    rw [toNat_zextAddr]
    omega
  | jumpsPlus nnn b =>
    have hnnn := nnn.isLt
    have hb := b.isLt
    rw [toNat_zextAddr_add_zextByte]
    omega
  | returns k =>
    have hk := hstack k
    bv_omega

/-! ### The stack and the memory (R32, R68) -/

/-- An instruction leaves the stack as it is, or writes its own address to one entry (R30, R32). -/
theorem exec_stack_cases {i : Instr} {s t : State} (h : exec i s = .next t) :
    t.stack = s.stack ∨ ∃ hroom : s.sp.val < 16, t.stack = s.stack.set s.sp.val s.pc hroom := by
  by_cases hsame : t.stack = s.stack
  · exact .inl hsame
  · obtain ⟨-, hcall⟩ := onlyCallAndRetTouchTheStack i s t h
    obtain ⟨nnn, rfl⟩ := hcall hsame
    obtain ⟨hroom, hpush⟩ | hraise := exec_call_cases nnn s
    · obtain rfl := Host.Outcome.next.inj (hpush.symm.trans h)
      exact .inr ⟨hroom, rfl⟩
    · obtain rfl := Host.Outcome.next.inj (hraise.symm.trans h)
      exact absurd rfl hsame

theorem exec_keeps_stack_le {i : Instr} {s t : State} (h : exec i s = .next t) (hpc : s.pc.toNat ≤ 4094)
    (hstack : ∀ k : Fin 16, (s.stack[k.val]).toNat ≤ 4094) (k : Fin 16) : (t.stack[k.val]).toNat ≤ 4094 := by
  obtain hsame | ⟨hroom, hset⟩ := exec_stack_cases h
  · simpa only [hsame] using hstack k
  · simp only [hset, Vector.getElem_set]
    split
    · exact hpc
    · exact hstack k

/-- An instruction keeps the canonical form of memory: what it writes, it stores byte by byte (log 16). -/
theorem exec_keeps_mem_wf {i : Instr} {s t : State} (h : exec i s = .next t) (hmem : s.mem.wf = true) :
    t.mem.wf = true := by
  cases Effect.of_exec h with
  | digits x => exact wf_storeBytes _ _ hmem
  | store x => exact wf_storeBytes _ _ hmem
  | _ => exact hmem

/-! ### Each event keeps the invariant -/

/-- A change to other pieces of the state, at most leaving a wait, keeps the invariant. -/
theorem State.Inv.of_eq {s t : State} (hinv : s.Inv) (hmem : t.mem = s.mem) (hpc : t.pc = s.pc)
    (hstack : t.stack = s.stack) (hmode : ∀ e, t.mode = .halted e → s.mode = .halted e) : t.Inv where
  mem_wf := hmem ▸ hinv.mem_wf
  pc_le := hpc ▸ hinv.pc_le
  stack_le := hstack ▸ hinv.stack_le
  halted_wf e hhalt := hpc ▸ hinv.halted_wf e (hmode e hhalt)

/-- Raising an error keeps the invariant when the rules allow its record. -/
theorem State.Inv.raise {s : State} (hinv : s.Inv) {k : ErrorKind} {o : Option Word} {a : Option Nat}
    (hwf : ErrorRecord.wf { kind := k, pc := s.pc, opcode := o, addr := a } = true) : (s.raise k o a).Inv where
  mem_wf := hinv.mem_wf
  pc_le := hinv.pc_le
  stack_le := hinv.stack_le
  halted_wf e hhalt := by
    obtain rfl := Mode.halted.inj hhalt
    exact ⟨hwf, rfl⟩

/-- Executing an instruction that was fetched and decoded keeps the invariant. -/
theorem exec_keeps_inv {i : Instr} {s t : State} (hinv : s.Inv) (hrun : s.mode = .running) (hpc : s.pc.toNat ≤ 4094)
    (hdec : decodeWord (encode i) = some i) (hexec : exec i s = .next t) : t.Inv where
  mem_wf := exec_keeps_mem_wf hexec hinv.mem_wf
  pc_le := (NextPc.of_exec hexec).le hpc hinv.stack_le
  stack_le := exec_keeps_stack_le hexec hpc hinv.stack_le
  halted_wf e hhalt := by
    obtain ⟨hraise, hat, hop, rfl⟩ := exec_halted hrun hexec hhalt
    obtain ⟨kind, pc, opcode, addr⟩ := e
    obtain rfl : pc = s.pc := hat
    obtain rfl : opcode = some (encode i) := hop
    exact ⟨hraise.record_wf hpc hdec, rfl⟩

theorem runCycle_keeps_inv {s t : State} (hinv : s.Inv) (hrun : s.mode = .running) (hcycle : runCycle s = .next t) :
    t.Inv := by
  obtain ⟨a, hfetch, h⟩ | ⟨o, hfetch, hdec, h⟩ | ⟨o, i, hfetch, hdec, h⟩ := runCycle_cases s
  · obtain rfl := Host.Outcome.next.inj (h.symm.trans hcycle)
    exact hinv.raise (fetch_error_record_wf hfetch)
  · obtain rfl := Host.Outcome.next.inj (h.symm.trans hcycle)
    exact hinv.raise (decodeError_record_wf (pc_le_of_fetch_ok hfetch) hdec)
  · obtain ⟨-, hword⟩ := encodeInvertsDecode o i hdec
    exact exec_keeps_inv hinv hrun (pc_le_of_fetch_ok hfetch) (hword.symm ▸ hdec) (h.symm.trans hcycle)

theorem cycle_keeps_inv {s t : State} (hinv : s.Inv) (hcycle : cycle s = .next t) : t.Inv := by
  unfold cycle at hcycle
  split at hcycle
  next =>
    obtain rfl := Host.Outcome.next.inj hcycle
    exact hinv
  next =>
    obtain rfl := Host.Outcome.next.inj hcycle
    exact hinv
  next hrun => exact runCycle_keeps_inv hinv hrun hcycle

theorem tick_keeps_inv {s : State} (hinv : s.Inv) : (tick s).Inv := by
  by_cases hlive : ∀ e, s.mode ≠ .halted e
  · rw [tick_of_not_halted hlive]
    exact hinv.of_eq rfl rfl rfl fun _ => id
  · obtain ⟨e, hhalt⟩ := not_forall_not.mp hlive
    rwa [tick_of_halted hhalt]

theorem keyPress_keeps_inv (k : Nibble) {s : State} (hinv : s.Inv) : (keyPress k s).Inv := by
  unfold keyPress
  split
  next => exact hinv
  next x _ => exact hinv.of_eq rfl rfl rfl fun _ hhalt => nomatch hhalt
  next => exact hinv

theorem applyEvent_keeps_inv {e : Event} {s t : State} (hinv : s.Inv) (happly : applyEvent e s = .next t) : t.Inv := by
  cases e with
  | cycle => exact cycle_keeps_inv hinv happly
  | tick => exact Host.Outcome.next.inj happly ▸ tick_keeps_inv hinv
  | keyPress k => exact Host.Outcome.next.inj happly ▸ keyPress_keeps_inv k hinv

/-- A step that answers a state has performed the event on the input, and then sampled new inputs. -/
theorem step_eq_next {s t : State} (hstep : step s = .next t) :
    ∃ u, applyEvent s.inputs.event s = .next u ∧ t = u.sampleInputs := by
  unfold step stepEvent at hstep
  split at hstep
  next u happly => exact ⟨u, happly, (Host.Outcome.next.inj hstep).symm⟩
  next => exact nomatch hstep
  next => exact nomatch hstep

/-- Settles O18: each of the three events keeps the invariant, which speaks of no input signal. -/
theorem stepKeepsTheInvariant : Obligations.StepKeepsTheInvariant := by
  intro s t hinv hstep
  obtain ⟨u, happly, rfl⟩ := step_eq_next hstep
  exact (applyEvent_keeps_inv hinv happly).of_eq rfl rfl rfl fun _ => id

end Sys2Proof.Machine

/-! SUPPORT. The step, event by event and mode by mode (30_encoding.md rules R93 to R97; 44_timers_keys.md rules R204, R207;
60_exceptions.md rules R220, R229, R231): the fetch and its halts, what each event does in each mode, and what no event
does. -/

namespace Sys2Proof.Machine

/-! ### Frames, one after another (R98) -/

theorem Part.same_trans {p : Part} {s t u : State} (hst : p.same s t) (htu : p.same t u) : p.same s u := by
  cases p <;> exact Eq.trans htu hst

/-- What neither of two changes touches, both together leave unchanged. -/
theorem UnchangedBut.trans {s t u : State} {P Q R : Part → Prop} (hst : UnchangedBut s t P) (htu : UnchangedBut t u Q)
    (hP : ∀ p, P p → R p) (hQ : ∀ p, Q p → R p) : UnchangedBut s u R := fun p hp =>
  Part.same_trans (hst p (mt (hP p) hp)) (htu p (mt (hQ p) hp))

/-! ### The fetch (R93) -/

theorem runCycle_eq_raise_outOfBounds {s : State} {a : Nat} (hfetch : fetch s = .error a) :
    runCycle s = .next (s.raise .outOfBounds none (some a)) := by
  simp only [runCycle, hfetch]

theorem fetch_of_gt {s : State} (hpc : s.pc.toNat > 4095) : fetch s = .error s.pc.toNat := by
  simp only [fetch, hpc, if_true]

theorem fetch_of_eq {s : State} (hpc : s.pc.toNat = 4095) : fetch s = .error 4096 := by
  simp [fetch, hpc]

/-- Settles O9: the three ranges of `pc` are the three answers of the fetch, and the cycle raises on the two faults. -/
theorem fetchIsBoundsChecked : Obligations.FetchIsBoundsChecked := fun _ =>
  ⟨fetch_of_gt, fetch_of_eq, fetch_eq_ok_wordAtPc, fun _ hfetch hevent hrun =>
    step_eq_of_runCycle hevent hrun (runCycle_eq_raise_outOfBounds hfetch)⟩

/-! ### What each event does in each mode (R96, R97, R207, R231) -/

/-- A step performs the event on its input and then samples new inputs (R229). -/
theorem step_eq_of_applyEvent {s t : State} {e : Event} (hevent : s.inputs.event = e) (happly : applyEvent e s = .next t) :
    step s = .next t.sampleInputs := by
  simp only [step, stepEvent, hevent, happly]

theorem cycle_of_running {s : State} (hrun : s.mode = .running) : cycle s = runCycle s := by
  simp only [cycle, hrun]

theorem cycle_of_awaitingKey {s : State} {x : RegIdx} (hwait : s.mode = .awaitingKey x) : cycle s = .next s := by
  simp only [cycle, hwait]

theorem cycle_of_halted {s : State} {err : ErrorRecord} (hhalt : s.mode = .halted err) : cycle s = .next s := by
  simp only [cycle, hhalt]

theorem keyPress_of_running {s : State} (k : Nibble) (hrun : s.mode = .running) : keyPress k s = s := by
  simp only [keyPress, hrun]

theorem keyPress_of_awaitingKey {s : State} {x : RegIdx} (k : Nibble) (hwait : s.mode = .awaitingKey x) :
    keyPress k s = { s.setV x (zextKey k) with mode := .running } := by
  simp only [keyPress, hwait]

theorem keyPress_of_halted {s : State} {err : ErrorRecord} (k : Nibble) (hhalt : s.mode = .halted err) :
    keyPress k s = s := by
  simp only [keyPress, hhalt]

theorem not_halted_of_running {s : State} (hrun : s.mode = .running) (err : ErrorRecord) : s.mode ≠ .halted err :=
  fun hhalt => nomatch hrun.symm.trans hhalt

theorem not_halted_of_awaitingKey {s : State} {x : RegIdx} (hwait : s.mode = .awaitingKey x) (err : ErrorRecord) :
    s.mode ≠ .halted err := fun hhalt => nomatch hwait.symm.trans hhalt

theorem applyEvent_of_halted {s : State} {err : ErrorRecord} (hhalt : s.mode = .halted err) (e : Event) :
    applyEvent e s = .next s := by
  cases e with
  | cycle => exact cycle_of_halted hhalt
  | tick => exact congrArg Host.Outcome.next (tick_of_halted hhalt)
  | keyPress k => exact congrArg Host.Outcome.next (keyPress_of_halted k hhalt)

/-- Settles O11: each of the three events leaves a halted machine as it is. -/
theorem haltedNeverChanges : Obligations.HaltedNeverChanges := fun s _ hhalt =>
  step_eq_of_applyEvent rfl (applyEvent_of_halted hhalt s.inputs.event)

/-- Running or waiting, a step that is a tick. -/
theorem step_of_tick {s : State} (hevent : s.inputs.event = .tick) (hlive : ∀ e, s.mode ≠ .halted e) :
    step s = .next (s.ticked 1).sampleInputs :=
  step_eq_of_applyEvent hevent (congrArg Host.Outcome.next (tick_of_not_halted hlive))

/-- Settles O10: the two events that are no key press do nothing, or lower the timers. -/
theorem waitingCycleChangesNothing : Obligations.WaitingCycleChangesNothing := by
  intro s x hwait
  have hcycle : s.inputs.event = .cycle → step s = .next s.sampleInputs := fun hevent =>
    step_eq_of_applyEvent hevent (cycle_of_awaitingKey hwait)
  refine ⟨hcycle, fun hnopress => ?_⟩
  cases hevent : s.inputs.event with
  | cycle => exact ⟨_, hcycle hevent, hwait⟩
  | tick => exact ⟨_, step_of_tick hevent (not_halted_of_awaitingKey hwait), hwait⟩
  | keyPress k => exact absurd hevent (hnopress k)

/-- Settles O12: a timer that is 0 stays 0, and the natural difference of 0 and 1 is 0 too. -/
theorem tickDecrementsNonZeroTimers : Obligations.TickDecrementsNonZeroTimers := by
  refine fun s hevent => ⟨fun hlive => ?_, fun e hhalt => haltedNeverChanges s e hhalt⟩
  have hdecay : ∀ b : Byte, (decay b).toNat = if b.toNat > 0 then b.toNat - 1 else 0 := fun b => by
    rw [toNat_decay]
    split <;> omega
  exact ⟨_, step_of_tick hevent hlive, hdecay s.dt, hdecay s.st,
    (s.ticked_unchangedBut 1).trans (s.ticked 1).sampleInputs_unchangedBut (by tauto) (by tauto)⟩

theorem toNat_zextKey (k : Nibble) : (zextKey k).toNat = k.toNat := BitVec.toNat_setWidth_of_le (by decide)

/-- Resuming with a byte in a register changes that register and the mode. -/
theorem State.setV_running_unchangedBut (s : State) (x : RegIdx) (b : Byte) :
    UnchangedBut s { s.setV x b with mode := .running } (fun p => p = .v x ∨ p = .mode) := by
  intro p hp
  cases p with
  | v r => exact of_not_not fun hne => hp (.inl (congrArg Part.v (State.eq_of_getV_setV_ne hne)))
  | mode => exact absurd (.inr rfl) hp
  | _ => rfl

/-- Settles O14: one case for each mode. -/
theorem keyPressEndsOnlyAWait : Obligations.KeyPressEndsOnlyAWait := by
  refine fun s k hevent => ⟨fun x hwait => ?_, fun hrun => ?_, haltedNeverChanges s⟩
  · have hgot : (s.setV x (zextKey k)).getV x = zextKey k := (s.getV_setV x x _).trans (if_pos rfl)
    exact ⟨_, step_eq_of_applyEvent hevent (congrArg Host.Outcome.next (keyPress_of_awaitingKey k hwait)),
      (congrArg BitVec.toNat hgot).trans (toNat_zextKey k), rfl,
      (s.setV_running_unchangedBut x _).trans (State.sampleInputs_unchangedBut _) (by tauto) (by tauto)⟩
  · exact step_eq_of_applyEvent hevent (congrArg Host.Outcome.next (keyPress_of_running k hrun))

/-- Entering the wait and the advance after it change the mode and `pc`. -/
theorem State.endCycle_withMode_unchangedBut (s : State) (mode : Mode) :
    UnchangedBut s { s with mode := mode }.endCycle (fun p => p = .mode ∨ p = .pc) := by
  intro p hp
  cases p with
  | mode => exact absurd (.inl rfl) hp
  | pc => exact absurd (.inr rfl) hp
  | _ => rfl

/-- Settles O56: the instruction sets the mode, and its cycle ends with the advance. -/
theorem waitForKeyEntersTheWait : Obligations.WaitForKeyEntersTheWait := fun x s =>
  ⟨{ s with mode := .awaitingKey x }.endCycle, rfl, rfl, BitVec.toNat_add s.pc 2,
    s.endCycle_withMode_unchangedBut (.awaitingKey x)⟩

/-! ### Every event answers a state (R94, R220) -/

theorem runCycle_answers_next (s : State) : ∃ t, runCycle s = .next t := by
  obtain ⟨a, -, h⟩ | ⟨o, -, -, h⟩ | ⟨o, i, -, -, h⟩ := runCycle_cases s
  · exact ⟨_, h⟩
  · exact ⟨_, h⟩
  · obtain ⟨t, hexec, -⟩ := exec_endsIn i s
    exact ⟨t, h.trans hexec⟩

theorem cycle_answers_next (s : State) : ∃ t, cycle s = .next t := by
  cases hmode : s.mode with
  | running => exact cycle_of_running hmode ▸ runCycle_answers_next s
  | awaitingKey x => exact ⟨s, cycle_of_awaitingKey hmode⟩
  | halted err => exact ⟨s, cycle_of_halted hmode⟩

theorem applyEvent_answers_next (e : Event) (s : State) : ∃ t, applyEvent e s = .next t := by
  cases e with
  | cycle => exact cycle_answers_next s
  | tick => exact ⟨tick s, rfl⟩
  | keyPress k => exact ⟨keyPress k s, rfl⟩

/-- Settles O15: each of the three events answers a next state. -/
theorem everyStepAnswersNext : Obligations.EveryStepAnswersNext := by
  intro s
  obtain ⟨t, happly⟩ := applyEvent_answers_next s.inputs.event s
  exact ⟨t.sampleInputs, step_eq_of_applyEvent rfl happly⟩

/-! ### A fatal error is precise (R220) -/

/-- A raise is the change of the mode to the record it writes, whose `pc` is the machine's. -/
theorem State.raise_precise {s t : State} {k : ErrorKind} {o : Option Word} {a : Option Nat} {err : ErrorRecord}
    (h : s.raise k o a = t) (hhalt : t.mode = .halted err) : t = { s with mode := .halted err } ∧ err.pc = s.pc := by
  subst h
  obtain rfl := Mode.halted.inj hhalt
  exact ⟨rfl, rfl⟩

/-- A running cycle that halts the machine has changed only the mode, wherever in the cycle the error was raised (R226). -/
theorem runCycle_halted {s t : State} {err : ErrorRecord} (hrun : s.mode = .running) (hcycle : runCycle s = .next t)
    (hhalt : t.mode = .halted err) : t = { s with mode := .halted err } ∧ err.pc = s.pc := by
  obtain ⟨a, -, h⟩ | ⟨o, -, -, h⟩ | ⟨o, i, -, -, h⟩ := runCycle_cases s
  · exact State.raise_precise (Host.Outcome.next.inj (h.symm.trans hcycle)) hhalt
  · exact State.raise_precise (Host.Outcome.next.inj (h.symm.trans hcycle)) hhalt
  · obtain ⟨-, hpc, -, ht⟩ := exec_halted hrun (h.symm.trans hcycle) hhalt
    exact ⟨ht, hpc⟩

/-- Of the events only a cycle halts a running machine. -/
theorem applyEvent_halted {e : Event} {s t : State} {err : ErrorRecord} (hrun : s.mode = .running)
    (happly : applyEvent e s = .next t) (hhalt : t.mode = .halted err) :
    e = .cycle ∧ t = { s with mode := .halted err } ∧ err.pc = s.pc := by
  cases e with
  | cycle => exact ⟨rfl, runCycle_halted hrun ((cycle_of_running hrun).symm.trans happly) hhalt⟩
  | tick =>
    obtain rfl := Host.Outcome.next.inj happly
    rw [tick_of_not_halted (not_halted_of_running hrun)] at hhalt
    exact absurd hhalt (not_halted_of_running hrun err)
  | keyPress k =>
    obtain rfl := Host.Outcome.next.inj happly
    rw [keyPress_of_running k hrun] at hhalt
    exact absurd hhalt (not_halted_of_running hrun err)

/-- Settles O16: the event was a cycle, the raise changed only the mode, and a halted machine stays halted. -/
theorem fatalErrorChangesOnlyTheMode : Obligations.FatalErrorChangesOnlyTheMode := by
  intro s t err hrun hstep hhalt
  obtain ⟨u, happly, rfl⟩ := step_eq_next hstep
  obtain ⟨hevent, rfl, hpc⟩ := applyEvent_halted hrun happly hhalt
  exact ⟨hevent, rfl, hpc, _, haltedNeverChanges _ err hhalt, rfl⟩

/-! ### What no step, and what few instructions change (R9, R24) -/

theorem exec_edge {i : Instr} {s t : State} (hexec : exec i s = .next t) : t.edge = s.edge := by
  cases Effect.of_exec hexec <;> rfl

theorem cycle_edge {s t : State} (hcycle : cycle s = .next t) : t.edge = s.edge := by
  cases hmode : s.mode with
  | running =>
    rw [cycle_of_running hmode] at hcycle
    obtain ⟨a, -, h⟩ | ⟨o, -, -, h⟩ | ⟨o, i, -, -, h⟩ := runCycle_cases s
    · exact Host.Outcome.next.inj (h.symm.trans hcycle) ▸ rfl
    · exact Host.Outcome.next.inj (h.symm.trans hcycle) ▸ rfl
    · exact exec_edge (h.symm.trans hcycle)
  | awaitingKey x => exact Host.Outcome.next.inj ((cycle_of_awaitingKey hmode).symm.trans hcycle) ▸ rfl
  | halted err => exact Host.Outcome.next.inj ((cycle_of_halted hmode).symm.trans hcycle) ▸ rfl

theorem tick_edge (s : State) : (tick s).edge = s.edge := by
  unfold tick
  split <;> rfl

theorem keyPress_edge (k : Nibble) (s : State) : (keyPress k s).edge = s.edge := by
  unfold keyPress
  split <;> rfl

theorem applyEvent_edge {e : Event} {s t : State} (happly : applyEvent e s = .next t) : t.edge = s.edge := by
  cases e with
  | cycle => exact cycle_edge happly
  | tick => exact Host.Outcome.next.inj happly ▸ tick_edge s
  | keyPress k => exact Host.Outcome.next.inj happly ▸ keyPress_edge k s

/-- Settles O20: none of the three events writes the policy, and sampling inputs does not either. -/
theorem edgePolicyIsFixed : Obligations.EdgePolicyIsFixed := by
  intro s t hstep
  obtain ⟨u, happly, rfl⟩ := step_eq_next hstep
  have hedge : u.edge = s.edge := applyEvent_edge happly
  exact hedge

/-- Settles O24: `index` is the effect that writes I, and it names its three instructions. -/
theorem onlyIndexInstructionsChangeI : Obligations.OnlyIndexInstructionsChangeI := by
  intro i s t hexec hne
  cases Effect.of_exec hexec with
  | index w hi => exact hi
  | _ => exact absurd rfl hne

end Sys2Proof.Machine

/-! SUPPORT. Stored bytes as the next fetch reads them (20_memory.md rule R75; 70_reset_and_hazards.md rule R266). -/

namespace Sys2Proof.Machine

/-- The word at `pc` is read as its two bytes, high byte first: neither is cut off by the word's width (R62). -/
theorem toNat_ofNat_wordAtPc (s : State) : (BitVec.ofNat 16 (wordAtPc s)).toNat = wordAtPc s := by
  have hhi := (s.mem.readByte s.pc.toNat).isLt
  have hlo := (s.mem.readByte (s.pc.toNat + 1)).isLt
  rw [BitVec.toNat_ofNat]
  exact Nat.mod_eq_of_lt (by unfold wordAtPc; omega)

/-- What memory holds at an address is what a fetch sees there, as the high byte or as the low one (R93). -/
theorem fetchSees_of_readByte {s : State} {a n : Nat} (ha : a ≤ 4095) (hbyte : (s.mem.readByte a).toNat = n) :
    FetchSees s a n := by
  subst hbyte
  constructor
  · rintro rfl hle
    have hlo := (s.mem.readByte (s.pc.toNat + 1)).isLt
    refine ⟨_, fetch_eq_ok_wordAtPc (Nat.succ_le_succ hle), ?_⟩
    rw [toNat_ofNat_wordAtPc, wordAtPc]
    omega
  · rintro rfl
    have hlo := (s.mem.readByte (s.pc.toNat + 1)).isLt
    refine ⟨_, fetch_eq_ok_wordAtPc ha, ?_⟩
    rw [toNat_ofNat_wordAtPc, wordAtPc]
    omega

/-- Settles O47: the bytes that the two stores leave in memory (R164, R165) are what the fetch reads. -/
theorem storedBytesAreFetchedNext : Obligations.StoredBytesAreFetchedNext := by
  refine fun x s t u hmem => ⟨fun hexec hin r hr => ?_, fun hexec hin => ?_⟩
  · obtain ⟨t', hexec', hbytes, -⟩ := (registersAreStored x s).1 hin
    obtain rfl : t' = t := Host.Outcome.next.inj (hexec'.symm.trans hexec)
    exact fetchSees_of_readByte (by omega) (hmem ▸ congrArg BitVec.toNat (hbytes r hr))
  · obtain ⟨t', hexec', hhundreds, htens, hones, -⟩ := (decimalDigitsAreStored x s).1 hin
    obtain rfl : t' = t := Host.Outcome.next.inj (hexec'.symm.trans hexec)
    rw [← hmem] at hhundreds htens hones
    exact ⟨fetchSees_of_readByte (by omega) hhundreds, fetchSees_of_readByte (by omega) htens,
      fetchSees_of_readByte hin hones⟩

end Sys2Proof.Machine

/-! SUPPORT. Dxyn (43_display.md rules R184, R186): the destination under each edge policy, what the draw answers on each
side of the bound, and drawing twice. -/

namespace Sys2Proof.Machine

/-! ### Destinations (R184) -/

theorem dest_linear_eq_some_iff (c r l : Nat) : dest .linear c r = some l ↔ r * 64 + c < 2048 ∧ l = r * 64 + c := by
  simp only [dest, Config.displayWidth, Config.displayHeight, Option.ite_none_right_eq_some, Option.some.injEq]
  omega

theorem dest_clip_eq_some_iff (c r l : Nat) : dest .clip c r = some l ↔ c < 64 ∧ r < 32 ∧ l = r * 64 + c := by
  simp only [dest, Config.displayWidth, Config.displayHeight, Option.ite_none_right_eq_some, Option.some.injEq]
  omega

theorem dest_wrap_eq_some_iff (c r l : Nat) : dest .wrap c r = some l ↔ l = (r % 32) * 64 + c % 64 := by
  simp only [dest, Config.displayWidth, Config.displayHeight, Option.some.injEq]
  omega

/-- Settles O50: one equivalence for each policy. -/
theorem destinationFollowsTheEdgePolicy : Obligations.DestinationFollowsTheEdgePolicy := fun c r l =>
  ⟨dest_linear_eq_some_iff c r l, dest_clip_eq_some_iff c r l, dest_wrap_eq_some_iff c r l⟩

/-! ### Out of bounds (R160, R186) -/

/-- The word of `Dxyn`, as a number (R83). -/
theorem encode_drw (x y : RegIdx) (n : Nibble) :
    encode (.drw x y n) = BitVec.ofNat 16 (0xD000 + x.toNat * 256 + y.toNat * 16 + n.toNat) := by
  have hx := x.isLt
  have hy := y.isLt
  have hn := n.isLt
  apply BitVec.eq_of_toNat_eq
  rw [BitVec.toNat_ofNat, Nat.mod_eq_of_lt (by omega)]
  exact toNat_word_nibbles 0xD#4 x y n

/-- Settles O52: the bounds check raises, with the word of the draw in the record. -/
theorem drawOutOfBoundsHalts : Obligations.DrawOutOfBoundsHalts := by
  intro x y n s hpos hout
  show s.checkSpan (.drw x y n) n.toNat _ = _
  rw [State.checkSpan_of_gt hpos (by omega), encode_drw]
  rfl

/-! ### In bounds (R186) -/

/-- The state after a `Dxyn` whose sprite lies in bounds. -/
def State.composited (s : State) (x y : RegIdx) (n : Nibble) : State :=
  ({ s with fb := (s.drawn x y n).1 }.setFlag (s.drawn x y n).2).present.endCycle

/-- Every byte of the sprite of an `n`-row draw lies in memory; a sprite of no rows has none. -/
def State.SpriteInBounds (s : State) (n : Nibble) : Prop := n.toNat = 0 ∨ s.i.toNat + n.toNat - 1 ≤ 4095

theorem exec_drw_of_inBounds {s : State} {n : Nibble} (hin : s.SpriteInBounds n) (x y : RegIdx) :
    exec (.drw x y n) s = .next (s.composited x y n) := by
  have hnone : spanFault s.i.toNat n.toNat = none :=
    (spanFault_eq_none_iff _ _).mpr (hin.imp_right fun h => Nat.le_add_of_sub_le h)
  show s.checkSpan (.drw x y n) n.toNat _ = _
  simp only [State.checkSpan, hnone, State.composited]

/-- The draw lights the pixel: some 1 bit of its sprite has it as its destination (R186). -/
def State.DrawLights (s : State) (x y : RegIdx) (n : Nibble) (l : Nat) : Prop :=
  SpriteLights s.edge (spriteAt s n.toNat) ((s.getV x).toNat % 64) ((s.getV y).toNat % 32) l

/-- The sprite of a draw has at most 15 rows, as the blit's XOR law asks (R182). -/
theorem length_readBytes_nibble_le (m : Memory) (base : Nat) (n : Nibble) : (readBytes m base n.toNat).length ≤ 15 := by
  rw [readBytes_length]
  exact Nat.le_of_lt_succ n.isLt

/-- A draw flips the pixels that it lights, and reports a collision when one of them goes out: its blit does, from an origin
that is reduced to the screen (R182, R183). -/
theorem State.drawn_spec (s : State) (x y : RegIdx) (n : Nibble) :
    (∀ l : Fin 2048, pixel (s.drawn x y n).1 l.val = true ↔
      Xor (pixel s.fb l.val = true) (s.DrawLights x y n l.val)) ∧
    ((s.drawn x y n).2 = true ↔
      ∃ l : Fin 2048, pixel s.fb l.val = true ∧ pixel (s.drawn x y n).1 l.val = false) :=
  blitIsTheXorOfTheSprite s.edge s.fb _ _ _ (length_readBytes_nibble_le s.mem s.i.toNat n) (Nat.mod_lt _ (by decide))
    (Nat.mod_lt _ (by decide))

theorem State.pixel_composited_iff (s : State) (x y : RegIdx) (n : Nibble) (l : Fin 2048) :
    pixel (s.composited x y n).fb l.val = true ↔ Xor (pixel s.fb l.val = true) (s.DrawLights x y n l.val) :=
  (s.drawn_spec x y n).1 l

/-- VF after a draw is the collision of its blit. -/
theorem State.getV_F_composited (s : State) (x y : RegIdx) (n : Nibble) :
    (s.composited x y n).getV 0xF = flagByte (s.drawn x y n).2 :=
  (State.getV_setFlag _ 0xF _).trans (if_pos rfl)

theorem flagByte_eq_one_iff (f : Bool) : flagByte f = 1 ↔ f = true := by
  cases f <;> decide

/-- VF ends as 1 exactly when some lit pixel went out (R183, R186). -/
theorem State.getV_F_composited_eq_one_iff (s : State) (x y : RegIdx) (n : Nibble) :
    (s.composited x y n).getV 0xF = 1 ↔
      ∃ l : Fin 2048, pixel s.fb l.val = true ∧ pixel (s.composited x y n).fb l.val = false := by
  rw [State.getV_F_composited, flagByte_eq_one_iff]
  exact (s.drawn_spec x y n).2

/-- Where every lit pixel stays lit, VF ends as 0 (R183, R186). -/
theorem State.getV_F_composited_of_kept {s : State} {x y : RegIdx} {n : Nibble}
    (h : ∀ l : Fin 2048, pixel s.fb l.val = true → pixel (s.composited x y n).fb l.val = true) :
    (s.composited x y n).getV 0xF = 0 := by
  have hclear : (s.drawn x y n).2 = false := by
    rw [← Bool.not_eq_true, (s.drawn_spec x y n).2]
    rintro ⟨l, hlit, hout⟩
    exact Bool.false_ne_true (hout.symm.trans (h l hlit))
  rw [State.getV_F_composited, hclear]
  rfl

theorem State.composited_unchangedBut (s : State) (x y : RegIdx) (n : Nibble) :
    UnchangedBut s (s.composited x y n) (fun p => p = .pc ∨ p = .v 0xF ∨ p = .presents ∨ ∃ l, p = .pixel l) := by
  intro p hp
  cases p with
  | v r => exact of_not_not fun hne => hp (.inr (.inl (congrArg Part.v (State.eq_of_getV_setV_ne hne))))
  | pc => exact absurd (.inl rfl) hp
  | presents => exact absurd (.inr (.inr (.inl rfl))) hp
  | pixel l => exact absurd (.inr (.inr (.inr ⟨l, rfl⟩))) hp
  | _ => rfl

/-- Settles O51: the buffer is the blit's, and VF tells whether a lit pixel went out. -/
theorem drawCompositesTheSprite : Obligations.DrawCompositesTheSprite := fun x y n s hin =>
  ⟨s.composited x y n, exec_drw_of_inBounds hin x y, s.pixel_composited_iff x y n,
    (s.getV_F_composited_eq_one_iff x y n).mpr, State.getV_F_composited_of_kept, rfl, BitVec.toNat_add s.pc 2,
    s.composited_unchangedBut x y n⟩

/-! ### Drawing twice (R186) -/

/-- A draw that reads its origin from other registers than VF leaves what a second one reads: the same pixels are lit. -/
theorem State.composited_drawLights {x y : RegIdx} (hx : x ≠ 0xF) (hy : y ≠ 0xF) (s : State) (n : Nibble) (l : Nat) :
    (s.composited x y n).DrawLights x y n l ↔ s.DrawLights x y n l := by
  have hVx : (s.composited x y n).getV x = s.getV x := (State.getV_setFlag _ x _).trans (if_neg hx)
  have hVy : (s.composited x y n).getV y = s.getV y := (State.getV_setFlag _ y _).trans (if_neg hy)
  simp only [State.DrawLights, hVx, hVy]
  rfl

/-- Drawing twice flips the same pixels twice. -/
theorem State.pixel_composited_twice {x y : RegIdx} (hx : x ≠ 0xF) (hy : y ≠ 0xF) (s : State) (n : Nibble) (l : Fin 2048) :
    pixel ((s.composited x y n).composited x y n).fb l.val = pixel s.fb l.val := by
  rw [Bool.eq_iff_iff, State.pixel_composited_iff, State.pixel_composited_iff, s.composited_drawLights hx hy]
  unfold Xor
  tauto

/-- Where a first draw found its pixels unlit, it put nothing out, and the lit pixels that the second draw, undoing it,
puts out are the sprite's. -/
theorem State.second_draw_erases_iff {x y : RegIdx} (hx : x ≠ 0xF) (hy : y ≠ 0xF) {s : State} {n : Nibble} {l : Fin 2048}
    (hunlit : s.DrawLights x y n l.val → pixel s.fb l.val = false) :
    pixel (s.composited x y n).fb l.val = true ∧
      pixel ((s.composited x y n).composited x y n).fb l.val = false ↔ s.DrawLights x y n l.val := by
  rw [← Bool.not_eq_true] at hunlit
  rw [s.pixel_composited_twice hx hy, s.pixel_composited_iff, ← Bool.not_eq_true]
  unfold Xor
  tauto

/-- Settles O53: flipping the same pixels twice undoes the first draw; a first draw over unlit pixels puts nothing out, and
the second then puts out exactly what the first lit. -/
theorem drawingTwiceRestoresTheBuffer : Obligations.DrawingTwiceRestoresTheBuffer := by
  intro x y n s t u hx hy hin hfirst hsecond
  obtain rfl := Host.Outcome.next.inj ((exec_drw_of_inBounds hin x y).symm.trans hfirst)
  obtain rfl := Host.Outcome.next.inj ((exec_drw_of_inBounds (s := s.composited x y n) hin x y).symm.trans hsecond)
  refine ⟨s.pixel_composited_twice hx hy n, fun hunlit => ⟨?first, ?second⟩⟩
  case first =>
    refine State.getV_F_composited_of_kept fun l hlit => ?_
    refine (s.pixel_composited_iff x y n l).mpr (.inl ⟨hlit, fun hlights => ?_⟩)
    exact Bool.false_ne_true ((hunlit l hlights).symm.trans hlit)
  case second =>
    rw [State.getV_F_composited_eq_one_iff]
    exact exists_congr fun l => State.second_draw_erases_iff hx hy (hunlit l)

end Sys2Proof.Machine

/-! SUPPORT. Reset: the state and the memory that it leaves (10_state.md rules R50, R51; 70_reset_and_hazards.md rules R260,
R261). -/

namespace Sys2Proof.Machine

/-! ### The state after reset (R50) -/

theorem getV_reset (r : RegIdx) : State.reset.getV r = 0 := Vector.getElem_replicate r.isLt

theorem stack_reset (k : Fin 16) : State.reset.stack[k.val] = 0 := Vector.getElem_replicate k.isLt

/-- Settles O19: the memory lists nothing, `pc` is the entry point, the stack holds zeros, and the machine runs. -/
theorem resetMeetsTheInvariant : Obligations.ResetMeetsTheInvariant where
  mem_wf := rfl
  pc_le := by decide
  stack_le k := by
    rw [stack_reset]
    exact Nat.zero_le _
  halted_wf _ hhalt := nomatch hhalt

/-! ### The memory after reset (R51) -/

theorem font_length : Config.font.length = 80 := rfl

/-- Above the font, memory reads as zero where nothing was stored. -/
theorem resetByte_of_le {a : Nat} (ha : 80 ≤ a) : Config.resetByte a = 0 :=
  List.getD_eq_default _ _ (font_length.trans_le ha)

theorem Memory.writeByte_resetByte (a : Nat) : Memory.writeByte [] a (Config.resetByte a) = [] := by
  simp [Memory.writeByte, Memory.clearCell]

/-- Storing what the addresses read as anyway lists nothing (log 16). -/
theorem storeBytes_resetBytes {base : Nat} {ws : List Byte} (h : ∀ k b, ws[k]? = some b → b = Config.resetByte (base + k)) :
    storeBytes [] base ws = [] := by
  induction ws generalizing base with
  | nil => rfl
  | cons w rest ih =>
    obtain rfl : w = Config.resetByte base := h 0 w rfl
    rw [storeBytes, Memory.writeByte_resetByte]
    refine ih fun k b hb => ?_
    rw [Nat.add_right_comm]
    exact h (k + 1) b hb

theorem storeBytes_defaultFont : storeBytes [] 0 Config.font = [] :=
  storeBytes_resetBytes fun k b hb => by
    rw [Nat.zero_add, Config.resetByte, List.getD_eq_getElem?_getD, hb]
    rfl

/-- Settles O57: the fields are those of `State.reset`, and storing the default font over itself changes nothing. -/
theorem resetStateHoldsTheResetValues : Obligations.ResetStateHoldsTheResetValues := by
  refine ⟨getV_reset, rfl, rfl, stack_reset, rfl, rfl, rfl, fun l => pixel_clearedSurface l.val, rfl, rfl, fun a => ?_,
    font_length, fun font hfont => ?_⟩
  · show Config.resetByte a = _
    split
    next => rfl
    next ha => exact resetByte_of_le (Nat.le_of_not_lt ha)
  · show Host.Outcome.next { State.reset with mem := storeBytes [] 0 font.toList } = _
    rw [hfont, storeBytes_defaultFont]
    rfl

/-! ### The reset operation (R260, R261) -/

/-- The memory that a reset leaves: the font from 0x000 and the image from 0x200. -/
def loadedMemory (font : Vector Byte 80) (image : List Byte) : Memory :=
  storeBytes (storeBytes [] 0 font.toList) 0x200 image

theorem loadedMemory_font (font : Vector Byte 80) (image : List Byte) (k : Nat) (hk : k < 80) :
    (loadedMemory font image).readByte k = font[k] := by
  have hfont : (font.toList)[k]? = some font[k] := by
    rw [Vector.getElem?_toList]
    exact Vector.getElem?_eq_getElem hk
  have hread := readByte_storeBytes_of_getElem? (m := []) (base := 0) (by simp) hfont
  rw [loadedMemory, readByte_storeBytes_outside _ _ _ _ (.inl (by omega))]
  rwa [Nat.zero_add] at hread

theorem loadedMemory_image {image : List Byte} (hfits : image.length ≤ 3584) (font : Vector Byte 80) (k : Nat)
    (hk : k < image.length) : (loadedMemory font image).readByte (0x200 + k) = image[k] :=
  readByte_storeBytes_of_getElem? (by omega) (List.getElem?_eq_getElem hk)

/-- Above the font, and neither in the image, memory reads as zero. -/
theorem loadedMemory_elsewhere (font : Vector Byte 80) {image : List Byte} {a : Nat} (hfont : 0x050 ≤ a)
    (himage : a < 0x200 ∨ 0x200 + image.length ≤ a) : (loadedMemory font image).readByte a = 0 := by
  have hoff : 0 + font.toList.length ≤ a := by simpa using hfont
  rw [loadedMemory, readByte_storeBytes_outside _ _ _ _ himage, readByte_storeBytes_outside _ _ _ _ (.inr hoff)]
  exact resetByte_of_le hfont

theorem loadedMemory_wf (font : Vector Byte 80) (image : List Byte) : (loadedMemory font image).wf = true :=
  wf_storeBytes _ _ (wf_storeBytes _ _ rfl)

theorem resetWith_of_le {image : List Byte} (hfits : image.length ≤ 3584) (font : Vector Byte 80) (edge : EdgePolicy) :
    resetWith font edge image = .next { State.reset with edge := edge, mem := loadedMemory font image } := if_pos hfits

/-- Settles O58: an image that fits is loaded, and the rest is as after a reset; one that does not is refused. -/
theorem resetLoadsTheImage : Obligations.ResetLoadsTheImage := by
  refine fun font edge image => ⟨fun hfits => ?_, fun hlong => if_neg (Nat.not_le_of_lt hlong)⟩
  exact ⟨_, resetWith_of_le hfits font edge, loadedMemory_font font image,
    fun a hlow hhigh => loadedMemory_elsewhere font hlow (.inl hhigh), loadedMemory_image hfits font,
    fun a hlow => loadedMemory_elsewhere font (by omega) (.inr hlow), getV_reset, rfl, rfl, stack_reset, rfl, rfl, rfl,
    fun l => pixel_clearedSurface l.val, rfl, rfl, loadedMemory_wf font image⟩

end Sys2Proof.Machine

/-! SUPPORT. The reference schedule: how many cycles and ticks it holds, and the pacing contract (70_reset_and_hazards.md
rules R270, R271). -/

namespace Sys2Proof.Machine

theorem cycleCount_referenceSchedule (cpuHz frames : Nat) :
    cycleCount (referenceSchedule cpuHz frames) = cpuHz / 60 * frames := by
  induction frames with
  | zero => rfl
  | succ frames ih =>
    have hframe : cycleCount (referenceFrame cpuHz) = cpuHz / 60 := by simp [cycleCount, referenceFrame]
    rw [referenceSchedule, cycleCount, List.count_append, ← cycleCount, ← cycleCount, hframe, ih]
    ring

theorem tickCount_referenceSchedule (cpuHz frames : Nat) : tickCount (referenceSchedule cpuHz frames) = frames := by
  induction frames with
  | zero => rfl
  | succ frames ih =>
    have hframe : tickCount (referenceFrame cpuHz) = 1 := by simp [tickCount, referenceFrame, List.count_replicate]
    rw [referenceSchedule, tickCount, List.count_append, ← tickCount, ← tickCount, hframe, ih, Nat.add_comm]

/-- Settles O59: after each frame both counts are exactly what the rates give, so both bounds hold with room to spare. -/
theorem referenceScheduleIsPaced : Obligations.ReferenceScheduleIsPaced := by
  intro cpuHz frames hrate
  have hcycles : ((cycleCount (referenceSchedule cpuHz frames) : Nat) : ℚ) = cpuHz * (frames / 60) := by
    rw [cycleCount_referenceSchedule, Nat.cast_mul, Nat.cast_div hrate (by norm_num)]
    push_cast
    ring
  have hticks : ((tickCount (referenceSchedule cpuHz frames) : Nat) : ℚ) = Config.timerHz * ((frames : ℚ) / 60) := by
    rw [tickCount_referenceSchedule]
    push_cast
    ring
  refine ⟨cycleCount_referenceSchedule cpuHz frames, tickCount_referenceSchedule cpuHz frames, ?_, ?_⟩
  · rw [hcycles]
    exact le_add_of_nonneg_right zero_le_one
  · rw [hticks, sub_self, abs_zero]
    exact zero_le_one

end Sys2Proof.Machine
